-- ==== Sys2Proof/Word.lean ====
section
/-! DEFINITION. The word types of the block (R7, R62): a byte, a 7-bit bus address, a 32-bit operation word. -/

namespace Sys2Proof

/-- `BYTE = 8` (R7): every register, data byte, status code, cell and response value. -/
abbrev Byte := BitVec 8

/-- `ADDR_BITS = 7` (R7): a bus address. -/
abbrev Addr := BitVec 7

/-- The 32-bit operation word `OP32` (R90, R104). -/
abbrev OpWord := BitVec 32

end Sys2Proof
end

