-- ==== Sys2Proof/Config.lean ====
section
/-! DEFINITION. The named parameters of R7 as plain data, the values and bit layouts R3 and R96 treat as
configuration (`Chip`), and the free value of a busy `DATA` read (R174). -/

namespace Sys2Proof.Machine

/-- The codes of `STATUS_TABLE` (R97) by name, as R248 asks; a `StatusTable` gives their numbers. The
hidden phase of R30 is one of them. -/
inductive Status where
  | busError | start | repStart
  | mtSlaAck | mtSlaNack | mtDataAck | mtDataNack
  | arbLost
  | mrSlaAck | mrSlaNack | mrDataAck | mrDataNack
  | srSlaAck | srArbLostSlaAck | srGcallAck | srArbLostGcallAck
  | srDataAck | srDataNack | srGcallDataAck | srGcallDataNack | srStop
  | stSlaAck | stArbLostSlaAck | stDataAck | stDataNack | stLastData
  | codeD0 | codeD8 | codeE0 | codeE8 | codeF0
  | noInfo
deriving DecidableEq, Repr

end Sys2Proof.Machine

namespace Sys2Proof
open Machine (Status)

/-- `BUS_MODE` (R7, OPEN): `open` draws the bus answers, `closed` couples the devices. -/
inductive BusMode where
  | openBus
  | closedBus
deriving DecidableEq, Repr

/-- `STOP_START_OVERLAP` (R7): what a START written while a STOP is pending does (R143). -/
inductive StopStartOverlap where
  | serialise
  | fault
deriving DecidableEq, Repr

/-- `STATUS_TABLE` (R96, U7): the number of every named code. -/
structure StatusTable where
  busError : Byte
  start : Byte
  repStart : Byte
  mtSlaAck : Byte
  mtSlaNack : Byte
  mtDataAck : Byte
  mtDataNack : Byte
  arbLost : Byte
  mrSlaAck : Byte
  mrSlaNack : Byte
  mrDataAck : Byte
  mrDataNack : Byte
  srSlaAck : Byte
  srArbLostSlaAck : Byte
  srGcallAck : Byte
  srArbLostGcallAck : Byte
  srDataAck : Byte
  srDataNack : Byte
  srGcallDataAck : Byte
  srGcallDataNack : Byte
  srStop : Byte
  stSlaAck : Byte
  stArbLostSlaAck : Byte
  stDataAck : Byte
  stDataNack : Byte
  stLastData : Byte
  codeD0 : Byte
  codeD8 : Byte
  codeE0 : Byte
  codeE8 : Byte
  codeF0 : Byte
  noInfo : Byte
deriving DecidableEq, Repr

/-- `BITRATE_FN` (R7, U8) as plain data: an expression over `F_CPU`, SCL in Hz and the prescaler, on
unbounded integers (R8). -/
inductive RateExpr where
  | fCpu
  | scl
  | presc
  | const (n : Int)
  | add (a b : RateExpr)
  | sub (a b : RateExpr)
  | mul (a b : RateExpr)
  | div (a b : RateExpr)
deriving DecidableEq, Repr

/-- The control words of R94. The last six rows are masks and bits: `clear_event` writes
`(CTRL & clearEventKeep) OR clearEventSet`, `recover` and `set_ack` likewise. -/
structure ControlWords where
  configureMaster : Byte
  configureSlave : Byte
  start : Byte
  stop : Byte
  writeByte : Byte
  readByteAck : Byte
  readByteNack : Byte
  armForReply : Byte
  clearEventKeep : Byte
  clearEventSet : Byte
  recoverKeep : Byte
  recoverSet : Byte
  setAckKeep : Byte
  setAckBit : Byte
deriving DecidableEq, Repr

/-- `PSENC` (R102): the encoding of each prescaler in `STAT.PS`. -/
structure PrescalerBits where
  by1 : BitVec 2
  by4 : BitVec 2
  by16 : BitVec 2
  by64 : BitVec 2
deriving DecidableEq, Repr

/-- The reset values of the registers (R21–R35, R46). -/
structure ResetValues where
  ctrl : Byte
  ps : BitVec 2
  data : Byte
  oadr : Byte
  br : Byte
deriving DecidableEq, Repr

/-- The layout of `CTRL` (R21–R28, R91, D2, G4): the number of each field's bit, `rsv` the reserved
one's. -/
structure CtrlLayout where
  int : Fin 8
  ea : Fin 8
  sta : Fin 8
  sto : Fin 8
  wc : Fin 8
  en : Fin 8
  rsv : Fin 8
  ie : Fin 8
deriving DecidableEq, Repr

/-- The layout of `STAT` (R29, R95, D3, G7): the bits of the status field as a mask, and the lower bit
of `PS`; every other bit is reserved. -/
structure StatLayout where
  mask : Byte
  psLo : Fin 7
deriving DecidableEq, Repr

/-- The layout of `OADR` (R34, R101, D4): the lowest bit of the own address, and the bit of `GCE`. -/
structure OadrLayout where
  addrLo : Fin 2
  gce : Fin 8
deriving DecidableEq, Repr

/-- The registers' offsets in the register space (R61, D6, G11). -/
structure RegOffsets where
  br : BitVec 3
  stat : BitVec 3
  oadr : BitVec 3
  data : BitVec 3
  ctrl : BitVec 3
deriving DecidableEq, Repr

/-- The values and layouts the spec takes from the reference peripheral, which R3 and R96 treat as
configuration; `standardChip` (`Machine/Chip.lean`) holds the spec's own. -/
structure Chip where
  /-- R91. -/
  ctrl : CtrlLayout
  /-- R29. -/
  stat : StatLayout
  /-- R34. -/
  oadr : OadrLayout
  /-- R61. -/
  offsets : RegOffsets
  /-- `STATUS_TABLE` (R96, R97). -/
  status : StatusTable
  /-- `BITRATE_FN` (R7). -/
  bitrate : RateExpr
  /-- R94. -/
  words : ControlWords
  /-- R102. -/
  presc : PrescalerBits
  /-- R46. -/
  reset : ResetValues
deriving DecidableEq, Repr

/-- The parameters of R7 that a whole system shares. No step changes them. -/
structure Config where
  /-- `F_CPU` in Hz, OPEN. -/
  fCpu : Int
  /-- `BR_MIN`, default 10. -/
  brMin : Int
  /-- `BUS_MODE`, OPEN. -/
  busMode : BusMode
  /-- `BUS_FAIR`, default false; it constrains infinite runs only (`Safety.lean`). -/
  busFair : Bool
  /-- `STOP_START_OVERLAP`, default serialise. -/
  overlap : StopStartOverlap
  /-- `STATUS_TABLE`, `BITRATE_FN` and the other values and layouts of the reference peripheral (R3). -/
  chip : Chip
deriving DecidableEq, Repr

/-- The parameters of R7 that each device has, and the device's number.
The number keeps the free values of two devices apart (log entry 5). -/
structure DevParams where
  id : Nat
  /-- `SLAVE_ADDR[k]`, OPEN (R310). -/
  slaveAddr : Addr
  /-- `REQ_MARKER[k]`, OPEN, not 0x00 (R293). -/
  reqMarker : Byte
  /-- `RESP_INIT[k]`, OPEN (R39). -/
  respInit : Byte
deriving DecidableEq, Repr

/-- FREE VALUE (R174, U14; log entry 5): what a read of `DATA` returns while `CTRL.INT = 0`, for a
device's number and its count of such reads. It has no body: nothing can be proved of its value. -/
opaque Config.busyData : Nat → Nat → Byte

end Sys2Proof
end

