-- ==== Sys2Proof/Machine/Chip.lean ====
section
/-! DEFINITION. What the configurable values and layouts of R3 and R96 mean, which of them fit together,
and those the spec gives. -/

namespace Sys2Proof

/-- The number of a named code (R96, R97). -/
def StatusTable.codeOf (T : StatusTable) (p : Machine.Status) : Byte :=
  match p with
  | .busError => T.busError | .start => T.start | .repStart => T.repStart
  | .mtSlaAck => T.mtSlaAck | .mtSlaNack => T.mtSlaNack
  | .mtDataAck => T.mtDataAck | .mtDataNack => T.mtDataNack
  | .arbLost => T.arbLost
  | .mrSlaAck => T.mrSlaAck | .mrSlaNack => T.mrSlaNack
  | .mrDataAck => T.mrDataAck | .mrDataNack => T.mrDataNack
  | .srSlaAck => T.srSlaAck | .srArbLostSlaAck => T.srArbLostSlaAck
  | .srGcallAck => T.srGcallAck | .srArbLostGcallAck => T.srArbLostGcallAck
  | .srDataAck => T.srDataAck | .srDataNack => T.srDataNack
  | .srGcallDataAck => T.srGcallDataAck | .srGcallDataNack => T.srGcallDataNack
  | .srStop => T.srStop
  | .stSlaAck => T.stSlaAck | .stArbLostSlaAck => T.stArbLostSlaAck
  | .stDataAck => T.stDataAck | .stDataNack => T.stDataNack | .stLastData => T.stLastData
  | .codeD0 => T.codeD0 | .codeD8 => T.codeD8 | .codeE0 => T.codeE0 | .codeE8 => T.codeE8
  | .codeF0 => T.codeF0
  | .noInfo => T.noInfo

/-- Every code of R97, in the table's order. -/
def Machine.Status.all : List Machine.Status :=
  [.busError, .start, .repStart, .mtSlaAck, .mtSlaNack, .mtDataAck, .mtDataNack, .arbLost,
   .mrSlaAck, .mrSlaNack, .mrDataAck, .mrDataNack, .srSlaAck, .srArbLostSlaAck, .srGcallAck,
   .srArbLostGcallAck, .srDataAck, .srDataNack, .srGcallDataAck, .srGcallDataNack, .srStop,
   .stSlaAck, .stArbLostSlaAck, .stDataAck, .stDataNack, .stLastData,
   .codeD0, .codeD8, .codeE0, .codeE8, .codeF0, .noInfo]

/-- The code with a given number, if the table has one. -/
def StatusTable.nameOf (T : StatusTable) (c : Byte) : Option Machine.Status :=
  Machine.Status.all.find? fun p => T.codeOf p == c

/-- Is a code read one of the named ones (R248)? -/
def StatusTable.isOneOf (T : StatusTable) (code : Byte) (names : List Machine.Status) : Bool :=
  (names.map T.codeOf).contains code

/-- A table a status read can carry (R95): every number lies in the status field, and no two names
share a number. -/
def StatusTable.WellFormed (L : StatLayout) (T : StatusTable) : Prop :=
  (∀ p, T.codeOf p &&& ~~~L.mask = 0) ∧ ∀ p q, T.codeOf p = T.codeOf q → p = q

/-! ### Layouts -/

/-- A byte whose bit `k` is `b`, every other bit 0. -/
def bitAt (k : Fin 8) (b : Bool) : Byte := if b then 1#8 <<< k.val else 0

/-- The bits of `CTRL` in the order of R91. -/
def CtrlLayout.bits (L : CtrlLayout) : List (Fin 8) :=
  [L.int, L.ea, L.sta, L.sto, L.wc, L.en, L.rsv, L.ie]

/-- The fields of `CTRL` share no bit (R91). -/
abbrev CtrlLayout.WellFormed (L : CtrlLayout) : Prop := L.bits.Nodup

/-- `PS` at its place in `STAT`, every other bit 0 (R29). -/
def StatLayout.placePs (L : StatLayout) (ps : BitVec 2) : Byte := ps.zeroExtend 8 <<< L.psLo.val

/-- `PS` as a byte of `STAT` holds it (R29). -/
def StatLayout.psOf (L : StatLayout) (v : Byte) : BitVec 2 := v.extractLsb' L.psLo.val 2

/-- `PS` lies outside the status field (R29, R95). -/
abbrev StatLayout.WellFormed (L : StatLayout) : Prop := L.placePs 0b11 &&& L.mask = 0

/-- `GCE` lies outside the own address (R34). -/
abbrev OadrLayout.WellFormed (O : OadrLayout) : Prop :=
  O.gce.val < O.addrLo.val ∨ O.addrLo.val + 7 ≤ O.gce.val

/-- The registers of the transceiver (R61). -/
inductive Reg where
  | br | stat | oadr | data | ctrl
deriving DecidableEq, Repr

/-- The register at an offset, if there is one (R61). -/
def RegOffsets.regAt (R : RegOffsets) (off : BitVec 3) : Option Reg :=
  if off = R.br then some .br
  else if off = R.stat then some .stat
  else if off = R.oadr then some .oadr
  else if off = R.data then some .data
  else if off = R.ctrl then some .ctrl
  else none

/-- No two registers share an offset (R61). -/
abbrev RegOffsets.WellFormed (R : RegOffsets) : Prop := [R.br, R.stat, R.oadr, R.data, R.ctrl].Nodup

/-- Layouts and a status table that fit together. -/
def Chip.WellFormed (C : Chip) : Prop :=
  C.ctrl.WellFormed ∧ C.stat.WellFormed ∧ C.oadr.WellFormed ∧ C.offsets.WellFormed ∧
  C.status.WellFormed C.stat

/-- The value of a bit-rate expression; `/` truncates toward zero (R8). -/
def RateExpr.eval (fCpu scl presc : Int) : RateExpr → Int
  | .fCpu => fCpu
  | .scl => scl
  | .presc => presc
  | .const n => n
  | .add a b => a.eval fCpu scl presc + b.eval fCpu scl presc
  | .sub a b => a.eval fCpu scl presc - b.eval fCpu scl presc
  | .mul a b => a.eval fCpu scl presc * b.eval fCpu scl presc
  | .div a b => (a.eval fCpu scl presc).tdiv (b.eval fCpu scl presc)

/-! ### The values the spec gives -/

/-- R97. -/
def standardStatus : StatusTable :=
  { busError := 0x00, start := 0x08, repStart := 0x10
    mtSlaAck := 0x18, mtSlaNack := 0x20, mtDataAck := 0x28, mtDataNack := 0x30
    arbLost := 0x38
    mrSlaAck := 0x40, mrSlaNack := 0x48, mrDataAck := 0x50, mrDataNack := 0x58
    srSlaAck := 0x60, srArbLostSlaAck := 0x68, srGcallAck := 0x70, srArbLostGcallAck := 0x78
    srDataAck := 0x80, srDataNack := 0x88, srGcallDataAck := 0x90, srGcallDataNack := 0x98
    srStop := 0xA0
    stSlaAck := 0xA8, stArbLostSlaAck := 0xB0, stDataAck := 0xB8, stDataNack := 0xC0
    stLastData := 0xC8
    codeD0 := 0xD0, codeD8 := 0xD8, codeE0 := 0xE0, codeE8 := 0xE8, codeF0 := 0xF0
    noInfo := 0xF8 }

/-- The number R97 gives a code. -/
def Machine.Status.code (p : Machine.Status) : Byte := standardStatus.codeOf p

/-- `BITRATE_FN` (R7): `((F_CPU / SCL) - 16) / (2 * presc)`. -/
def standardRate : RateExpr :=
  .div (.sub (.div .fCpu .scl) (.const 16)) (.mul (.const 2) .presc)

/-- R94. -/
def standardWords : ControlWords :=
  { configureMaster := 0x04, configureSlave := 0x45, start := 0xA4, stop := 0x94, writeByte := 0x84
    readByteAck := 0xC4, readByteNack := 0x84, armForReply := 0xC5
    clearEventKeep := 0x45, clearEventSet := 0x80, recoverKeep := 0x45, recoverSet := 0x90
    setAckKeep := 0x05, setAckBit := 0x40 }

/-- R102. -/
def standardPrescaler : PrescalerBits := { by1 := 0b00, by4 := 0b01, by16 := 0b10, by64 := 0b11 }

/-- R46. -/
def standardReset : ResetValues := { ctrl := 0x00, ps := 0b00, data := 0xFF, oadr := 0xFE, br := 0x00 }

/-- R91: `I E S P w N r Q`. -/
def standardCtrl : CtrlLayout :=
  { int := 7, ea := 6, sta := 5, sto := 4, wc := 3, en := 2, rsv := 1, ie := 0 }

/-- R29, R95: `S` in bits 7 to 3, `PS` in bits 1 and 0. -/
def standardStat : StatLayout := { mask := 0xF8, psLo := 0 }

/-- R34: the own address in bits 7 to 1, `GCE` in bit 0. -/
def standardOadr : OadrLayout := { addrLo := 1, gce := 0 }

/-- R61. -/
def standardOffsets : RegOffsets := { br := 0, stat := 1, oadr := 2, data := 3, ctrl := 4 }

/-- The spec's own values and layouts. -/
def standardChip : Chip :=
  { ctrl := standardCtrl, stat := standardStat, oadr := standardOadr, offsets := standardOffsets
    status := standardStatus, bitrate := standardRate, words := standardWords
    presc := standardPrescaler, reset := standardReset }

end Sys2Proof
end

