-- ==== Sys2Proof/Syntax.lean ====
section
/-! DEFINITION. The instructions: one constructor for each row of `spec/opcode_table.json`. -/

namespace Sys2Proof

/-- The block's operations: fifteen operation words (R106), four control word classes (R92) and
seven handler keys (R114). -/
inductive Instr where
  /-- R200 `configure_master PRESC, SCL_KHZ`. -/
  | configureMaster (presc : Byte) (sclKhz : BitVec 16)
  /-- R201 `configure_slave ADDR`. -/
  | configureSlave (addr : Addr)
  /-- R203 `start`. -/
  | start
  /-- R204 `stop`. -/
  | stop
  /-- R205 `write_byte BYTE`. -/
  | writeByte (b : Byte)
  /-- R206 `read_byte A`. -/
  | readByte (a : Bool)
  /-- R207 `arm_for_reply`. -/
  | armForReply
  /-- R208 `load_data BYTE`. -/
  | loadData (b : Byte)
  /-- R209 `read_data`. -/
  | readData
  /-- R210 `set_ack A`. -/
  | setAck (a : Bool)
  /-- R211 `clear_event`. -/
  | clearEvent
  /-- R212 `recover`. -/
  | recover
  /-- R246 `write_command ADDR, BYTE`. -/
  | writeCommand (addr : Addr) (b : Byte)
  /-- R247 `read_response ADDR`. -/
  | readResponse (addr : Addr)
  /-- R213 `read_status`. -/
  | readStatus
  /-- R142 the control word class CONFIG: bits EA, STO, WC (ignored), EN, IE of the word. -/
  | ctrlConfig (ea sto wc en ie : Bool)
  /-- R144 the control word class CONTINUE: bits EA, WC (ignored), IE of the word. -/
  | ctrlContinue (ea wc ie : Bool)
  /-- R143 the control word class START. -/
  | ctrlStart (ea wc ie : Bool)
  /-- R146, R147 the control word class STOP. -/
  | ctrlStop (ea wc ie : Bool)
  /-- R283, own address: the key 0x60 of R97. -/
  | evtAddrWOwn
  /-- R283, general call: 0x70. -/
  | evtAddrWGeneral
  /-- R284, own address: 0x80. -/
  | evtDataRxOwn
  /-- R284, general call: 0x90. -/
  | evtDataRxGeneral
  /-- R285, address match: 0xA8. -/
  | evtDataReqAddress
  /-- R285, continuation: 0xB8. -/
  | evtDataReqContinuation
  /-- R286 every other key; the table's row fixes no bit, so the key is the operand. -/
  | evtOther (key : Byte)
deriving DecidableEq, Repr

/-- The three formats a decoder reads (R90): the context says which (R90, R109). -/
inductive CodeWord where
  /-- An operation word `OP32`. -/
  | op (w : OpWord)
  /-- A control word `CTRL8`. -/
  | ctrl (v : Byte)
  /-- A handler key `EVT8`. -/
  | evt (key : Byte)
deriving DecidableEq, Repr

/-- The names of the fifteen operations, for the context checks of R215. -/
inductive OpKind where
  | configureMaster | configureSlave | start | stop | writeByte | readByte | armForReply | loadData
  | readData | setAck | clearEvent | recover | writeCommand | readResponse | readStatus
deriving DecidableEq, Repr

/-- The operation an operation word stands for; the control words and handler keys stand for none. -/
def Instr.opKind : Instr → Option OpKind
  | .configureMaster _ _ => some .configureMaster
  | .configureSlave _ => some .configureSlave
  | .start => some .start
  | .stop => some .stop
  | .writeByte _ => some .writeByte
  | .readByte _ => some .readByte
  | .armForReply => some .armForReply
  | .loadData _ => some .loadData
  | .readData => some .readData
  | .setAck _ => some .setAck
  | .clearEvent => some .clearEvent
  | .recover => some .recover
  | .writeCommand _ _ => some .writeCommand
  | .readResponse _ => some .readResponse
  | .readStatus => some .readStatus
  | .ctrlConfig _ _ _ _ _ | .ctrlContinue _ _ _ | .ctrlStart _ _ _ | .ctrlStop _ _ _
  | .evtAddrWOwn | .evtAddrWGeneral | .evtDataRxOwn | .evtDataRxGeneral
  | .evtDataReqAddress | .evtDataReqContinuation | .evtOther _ => none

end Sys2Proof
end

