-- ==== Sys2Proof/WellFormed.lean ====
section
/-! DEFINITION. Which terms of `Instr` stand for an encoding. Operand widths are exact by type
(R105), so only the key of `evtOther` is checked. -/

namespace Sys2Proof

/-- The keys of the six EVT8 rows with a fixed code (R114), in a status table. -/
def namedKeys (T : StatusTable) : List Byte :=
  [T.srSlaAck, T.srGcallAck, T.srDataAck, T.srGcallDataAck, T.stSlaAck, T.stDataAck]

/-- A masked status code: every bit outside the status field is 0 (R95). -/
def isMaskedCode (L : StatLayout) (key : Byte) : Bool := key &&& ~~~L.mask == 0

/-- The well-formed instructions: the key of `evtOther` is none of the six named keys (R114: "every
other code"). -/
def Instr.wellFormed (T : StatusTable) : Instr → Bool
  | .evtOther key => !(namedKeys T).contains key
  | .configureMaster _ _ | .configureSlave _ | .start | .stop | .writeByte _ | .readByte _
  | .armForReply | .loadData _ | .readData | .setAck _ | .clearEvent | .recover
  | .writeCommand _ _ | .readResponse _ | .readStatus
  | .ctrlConfig _ _ _ _ _ | .ctrlContinue _ _ _ | .ctrlStart _ _ _ | .ctrlStop _ _ _
  | .evtAddrWOwn | .evtAddrWGeneral | .evtDataRxOwn | .evtDataRxGeneral
  | .evtDataReqAddress | .evtDataReqContinuation => true

end Sys2Proof
end

