-- ==== Sys2Proof/Decode.lean ====
section
/-! DEFINITION. The decoder (R108, R92, R93, R114), total and rejecting by name, and after it the
encoder, written from the same tables. -/

namespace Sys2Proof

/-- Why a word decodes to nothing. -/
inductive Reject where
  /-- R107: opcode 0, or a reserved bit of the format is 1. -/
  | illegalOperationWord
  /-- R93: the control word is reserved whatever `CTRL` holds. -/
  | reservedControlWord
deriving DecidableEq, Repr

/-- `FIELD_MASK` (R108) of the formats of R105. -/
def maskOPN : OpWord := 0xF0000000
def maskOPB : OpWord := 0xF000FF00
def maskOPA : OpWord := 0xF1000000
def maskOPR : OpWord := 0xF07F0000
def maskOPRB : OpWord := 0xF07FFF00
def maskOPC : OpWord := 0xF0FFFFFF

/-- The operand fields of R105. -/
def fieldAddr (w : OpWord) : Addr := w.extractLsb' 16 7
def fieldByte (w : OpWord) : Byte := w.extractLsb' 8 8
def fieldA (w : OpWord) : Bool := w.getLsbD 24
def fieldPresc (w : OpWord) : Byte := w.extractLsb' 16 8
def fieldScl (w : OpWord) : BitVec 16 := w.extractLsb' 0 16

/-- R107: a set bit outside the format's mask makes the word illegal. -/
def ifFormat (mask w : OpWord) (i : Instr) : Except Reject Instr :=
  if w &&& ~~~mask = 0 then .ok i else .error .illegalOperationWord

/-- R106, R108: an operation word. -/
def decodeOp (w : OpWord) : Except Reject Instr :=
  match (w.extractLsb' 28 4).toNat with
  | 1 => ifFormat maskOPC w (.configureMaster (fieldPresc w) (fieldScl w))
  | 2 => ifFormat maskOPR w (.configureSlave (fieldAddr w))
  | 3 => ifFormat maskOPN w .start
  | 4 => ifFormat maskOPN w .stop
  | 5 => ifFormat maskOPB w (.writeByte (fieldByte w))
  | 6 => ifFormat maskOPA w (.readByte (fieldA w))
  | 7 => ifFormat maskOPN w .armForReply
  | 8 => ifFormat maskOPB w (.loadData (fieldByte w))
  | 9 => ifFormat maskOPN w .readData
  | 10 => ifFormat maskOPA w (.setAck (fieldA w))
  | 11 => ifFormat maskOPN w .clearEvent
  | 12 => ifFormat maskOPN w .recover
  | 13 => ifFormat maskOPRB w (.writeCommand (fieldAddr w) (fieldByte w))
  | 14 => ifFormat maskOPR w (.readResponse (fieldAddr w))
  | 15 => ifFormat maskOPN w .readStatus
  | _ => .error .illegalOperationWord

/-- The bits of a control word, by the layout of `CTRL` (R91). -/
def ctrlI (L : CtrlLayout) (v : Byte) : Bool := v.getLsbD L.int
def ctrlE (L : CtrlLayout) (v : Byte) : Bool := v.getLsbD L.ea
def ctrlS (L : CtrlLayout) (v : Byte) : Bool := v.getLsbD L.sta
def ctrlP (L : CtrlLayout) (v : Byte) : Bool := v.getLsbD L.sto
def ctrlW (L : CtrlLayout) (v : Byte) : Bool := v.getLsbD L.wc
def ctrlN (L : CtrlLayout) (v : Byte) : Bool := v.getLsbD L.en
def ctrlR (L : CtrlLayout) (v : Byte) : Bool := v.getLsbD L.rsv
def ctrlQ (L : CtrlLayout) (v : Byte) : Bool := v.getLsbD L.ie

/-- R92, R93: a control word's class. The last condition of R93 depends on the current `CTRL.STO`
and is checked where the word is written (`ctrlWrite`). -/
def decodeCtrl (L : CtrlLayout) (v : Byte) : Except Reject Instr :=
  match ctrlR L v, ctrlI L v, ctrlS L v, ctrlP L v, ctrlN L v with
  | true, _, _, _, _ => .error .reservedControlWord
  | false, false, false, p, n => .ok (.ctrlConfig (ctrlE L v) p (ctrlW L v) n (ctrlQ L v))
  | false, false, true, _, _ => .error .reservedControlWord
  | false, true, false, false, true => .ok (.ctrlContinue (ctrlE L v) (ctrlW L v) (ctrlQ L v))
  | false, true, true, false, true => .ok (.ctrlStart (ctrlE L v) (ctrlW L v) (ctrlQ L v))
  | false, true, false, true, true => .ok (.ctrlStop (ctrlE L v) (ctrlW L v) (ctrlQ L v))
  | false, true, true, true, _ => .error .reservedControlWord
  | false, true, _, _, false => .error .reservedControlWord

/-- R114: the handler's dispatch key, by the codes of a status table; every other byte is `OTHER`. -/
def decodeEvt (T : StatusTable) (key : Byte) : Instr :=
  if key = T.srSlaAck then .evtAddrWOwn
  else if key = T.srGcallAck then .evtAddrWGeneral
  else if key = T.srDataAck then .evtDataRxOwn
  else if key = T.srGcallDataAck then .evtDataRxGeneral
  else if key = T.stSlaAck then .evtDataReqAddress
  else if key = T.stDataAck then .evtDataReqContinuation
  else .evtOther key

/-- The decoder over the three formats (R90), by a chip's layout of `CTRL` and its status table (R3). -/
def decode (C : Chip) : CodeWord → Except Reject Instr
  | .op w => decodeOp w
  | .ctrl v => decodeCtrl C.ctrl v
  | .evt key => .ok (decodeEvt C.status key)

/-! ### The encoder -/

/-- An operation word's opcode in bits 31:28 (R105, R106). -/
def opcodeBits (op : BitVec 4) : OpWord := op.zeroExtend 32 <<< 28

/-- Operands at their places in the operation word (R105). -/
def placeAddr (a : Addr) : OpWord := a.zeroExtend 32 <<< 16
def placeByte (b : Byte) : OpWord := b.zeroExtend 32 <<< 8
def placeA (a : Bool) : OpWord := (BitVec.ofBool a).zeroExtend 32 <<< 24
def placePresc (p : Byte) : OpWord := p.zeroExtend 32 <<< 16
def placeScl (k : BitVec 16) : OpWord := k.zeroExtend 32

/-- A control word from its bits, `r = 0` (R91). -/
def ctrlWord (L : CtrlLayout) (i e s p w n q : Bool) : Byte :=
  bitAt L.int i ||| bitAt L.ea e ||| bitAt L.sta s ||| bitAt L.sto p ||| bitAt L.wc w |||
  bitAt L.en n ||| bitAt L.ie q

/-- The word of an instruction, with its format (R91, R105, R106, R114). -/
def encode (C : Chip) : Instr → CodeWord
  | .configureMaster p k => .op (opcodeBits 0x1 ||| placePresc p ||| placeScl k)
  | .configureSlave a => .op (opcodeBits 0x2 ||| placeAddr a)
  | .start => .op (opcodeBits 0x3)
  | .stop => .op (opcodeBits 0x4)
  | .writeByte b => .op (opcodeBits 0x5 ||| placeByte b)
  | .readByte a => .op (opcodeBits 0x6 ||| placeA a)
  | .armForReply => .op (opcodeBits 0x7)
  | .loadData b => .op (opcodeBits 0x8 ||| placeByte b)
  | .readData => .op (opcodeBits 0x9)
  | .setAck a => .op (opcodeBits 0xA ||| placeA a)
  | .clearEvent => .op (opcodeBits 0xB)
  | .recover => .op (opcodeBits 0xC)
  | .writeCommand a b => .op (opcodeBits 0xD ||| placeAddr a ||| placeByte b)
  | .readResponse a => .op (opcodeBits 0xE ||| placeAddr a)
  | .readStatus => .op (opcodeBits 0xF)
  | .ctrlConfig e p w n q => .ctrl (ctrlWord C.ctrl false e false p w n q)
  | .ctrlContinue e w q => .ctrl (ctrlWord C.ctrl true e false false w true q)
  | .ctrlStart e w q => .ctrl (ctrlWord C.ctrl true e true false w true q)
  | .ctrlStop e w q => .ctrl (ctrlWord C.ctrl true e false true w true q)
  | .evtAddrWOwn => .evt C.status.srSlaAck
  | .evtAddrWGeneral => .evt C.status.srGcallAck
  | .evtDataRxOwn => .evt C.status.srDataAck
  | .evtDataRxGeneral => .evt C.status.srGcallDataAck
  | .evtDataReqAddress => .evt C.status.stSlaAck
  | .evtDataReqContinuation => .evt C.status.stDataAck
  | .evtOther key => .evt key

/-! ### Words as the opcode table numbers them -/

/-- The format an 8-bit table word is read in. Both CTRL8 and EVT8 are 8 bits, and in the machine the
context decides (R90); for a bare byte the more specific row decides (log entry 15): a named key of
R114, else a control word class of R92, else, for a masked code, `EVT.OTHER`. Every named key is a
reserved control word, so no byte is taken from the CTRL8 rows. -/
def tableByte (v : Byte) : CodeWord :=
  if (namedKeys standardStatus).contains v then .evt v
  else match decodeCtrl standardCtrl v with
    | .ok _ => .ctrl v
    | .error _ => if isMaskedCode standardStat v then .evt v else .ctrl v

/-- The code word of a table row of `nbits` bits: 32 for OP32, 8 for CTRL8 and EVT8, and 0 for the one
row that fixes no bit, `EVT.OTHER`, read as the key 0x00. -/
def tableWord (nbits w : Nat) : Option CodeWord :=
  match nbits with
  | 32 => some (.op (BitVec.ofNat 32 w))
  | 8 => some (tableByte (BitVec.ofNat 8 w))
  | 0 => some (.evt 0x00)
  | _ => none

/-- The instruction the decoder reads from a table word, with the spec's own layout and codes. -/
def decodeTableWord (nbits w : Nat) : Option Instr :=
  match tableWord nbits w with
  | some c => (decode standardChip c).toOption
  | none => none

end Sys2Proof
end

