-- ==== Sys2Proof/Machine/State.lean ====
section
/-! DEFINITION. The state of a system of devices, as plain data (`10_state.md`, R311), and the state
after reset (R46, R380). -/

namespace Sys2Proof.Machine

/-- The pending command of R31. -/
inductive Pend where
  | none | start | byte | stop | stopThenStart
deriving DecidableEq, Repr

/-- R36. -/
inductive Role where
  | unconfigured | master | slave
deriving DecidableEq, Repr

/-- `CTRL` (R21–R28). Bit 1 is reserved, reads 0 and has no storage (R27). -/
structure Ctrl where
  int : Bool
  ea : Bool
  sta : Bool
  sto : Bool
  wc : Bool
  en : Bool
  ie : Bool
deriving DecidableEq, Repr

/-- The outcome of a master operation (R243). -/
inductive EngOutcome where
  | success
  | successByte (b : Byte)
  | noAck (code : Byte)
  | arbLost (code : Byte)
  | unexpected (code : Byte)
deriving DecidableEq, Repr

/-- The engine's latches (R41). `none` is the spec's own "holds no value" (log entry 18). A
primitive leaves `code` and `byte` as they are (log entry 29). -/
structure Latches where
  addr : Option Addr
  cmd : Option Byte
  code : Option Byte
  byte : Option Byte
  outcome : Option EngOutcome
deriving DecidableEq, Repr

/-- The engine's stage (R40): `Idle`, the lines of the primitives (R216) and the stages of R246 and
R247. A stage carries the operands and local values the lines still to run need (log entry 7). -/
inductive Stage where
  | idle
  | configureMaster1 (presc : Byte) (sclKhz : BitVec 16)
  | configureMaster2 (ps : BitVec 2) (br : Byte)
  | configureMaster3 (br : Byte)
  | configureMaster4
  | configureSlave1 (addr : Addr)
  | configureSlave2 (addr : Addr)
  | configureSlave3
  | start1
  | start2
  | stop1
  | writeByte1 (b : Byte)
  | writeByte2
  | writeByte3
  | writeByte4
  | readByte1 (a : Bool)
  | readByte2
  | readByte3
  | readByte4 (code : Byte)
  | armForReply1
  | loadData1 (b : Byte)
  | readData1
  | setAck1 (a : Bool)
  | setAck2 (c : Byte) (a : Bool)
  | clearEvent1
  | recover1
  | readStatus1
  | wcIssue (addr : Addr) (b : Byte)
  | wcStartGo | wcStartWait | wcAddrLoad | wcAddrGo | wcAddrWait | wcAddrTest
  | wcDataLoad | wcDataGo | wcDataWait | wcDataTest | wcFinish | wcAbort
  | rrIssue (addr : Addr)
  | rrStartGo | rrStartWait | rrAddrLoad | rrAddrGo | rrAddrWait | rrAddrTest
  | rrReadGo | rrReadWait | rrReadTest | rrFinish | rrAbort
deriving DecidableEq, Repr

/-- The agents of one device that can raise a fault (R6, R345). -/
inductive Agent where
  | engine | handler | host | xcvr
deriving DecidableEq, Repr

/-- The fault codes F1–F4 (R345), and the read of a latch that holds no value (R41, U27; log entry
18). -/
inductive FaultReason where
  | commandWhileBusy | startDuringStop | continueWithoutEvent | continueAfterLastByte
  | unwrittenLatch
deriving DecidableEq, Repr

/-- A member of the set `faults` (R44, R345); the device that holds the set is the agent's device. -/
structure FaultMark where
  reason : FaultReason
  agent : Agent
  stage : Stage
deriving DecidableEq, Repr

/-- The refusal codes X1–X13 (R346). -/
inductive RefuseReason where
  | reservedControlWord | illegalOperationWord | roleConflict | badClock | bitRateOutOfRange
  | reservedAddress | notConfigured | hostTouchesSlaveTransceiver | operationInFlight
  | setAckDuringStop | wideResponseValue | badRegisterOffset | cellWriteNotZero
deriving DecidableEq, Repr

/-- What an operation or a host's read returns to the host (`return` of R205, R206, R209, R213, the
reads of R370). The model's own field (log entry 8). -/
inductive Ret where
  | none
  | code (c : Byte)
  | byte (b : Byte)
  | byteCode (b c : Byte)
  | outcome (o : EngOutcome)
deriving DecidableEq, Repr

/-- The foreground's place in the protocol of R290 (log entry 24). -/
inductive Foreground where
  | poll | consume | refresh
deriving DecidableEq, Repr

/-- One device (R46). -/
structure Device where
  /-- The device's parameters (R7). -/
  par : DevParams
  /-- `CTRL` (R21–R28). -/
  ctrl : Ctrl
  /-- `STAT.PS` (R29). -/
  ps : BitVec 2
  /-- `DATA` (R33). -/
  data : Byte
  /-- `OADR` (R34). -/
  oadr : Byte
  /-- `BR` (R35). -/
  br : Byte
  /-- The hidden phase (R30). -/
  phase : Status
  /-- The pending command (R31). -/
  pend : Pend
  /-- `txbyte` (R145); `none` is "no value" (R380). -/
  txbyte : Option Byte
  /-- `ack` (R145); `none` is "no value" (R380). -/
  ack : Option Bool
  /-- R36. -/
  role : Role
  /-- R40. -/
  stage : Stage
  /-- `eng.*` (R41). -/
  eng : Latches
  /-- `CELL` (R38). -/
  cell : Byte
  /-- `RESP` (R39). -/
  resp : Byte
  /-- `GIE` (R43). -/
  gie : Bool
  /-- The mark `faults` (R44), without repeats. -/
  faults : List FaultMark
  /-- The mark `refused` (R44). -/
  refused : Bool
  /-- The code of the last refusal (R346; the model's own field, log entry 3). -/
  lastRefusal : Option RefuseReason
  /-- The value last returned to the host (the model's own field, log entry 8). -/
  ret : Ret
  /-- The foreground's place in R290 (the model's own field, log entry 24). -/
  fg : Foreground
  /-- How many busy `DATA` reads have drawn a free value (the model's own field, log entry 5). -/
  draws : Nat
deriving DecidableEq, Repr

/-- Who issues an operation (R215). -/
inductive Issuer where
  | host | handler
deriving DecidableEq, Repr

/-- The host's actions of R370 other than issuing an operation, and the protocol steps of R290. -/
inductive HostAct where
  /-- `MemRead(CELL, 1)`. -/
  | cellRead
  /-- `MemWrite(CELL, 1, v)`. -/
  | cellWrite (v : Byte)
  /-- `MemWrite(RESP, 1, v)`. -/
  | respWrite (v : Byte)
  /-- A write of a response value wider than one byte (R68). -/
  | respWriteWide (v : BitVec 16)
  /-- A write of `GIE`. -/
  | setGie (on : Bool)
  /-- Reading `eng.outcome` after an operation returned. -/
  | readOutcome
  /-- R290 `poll`. -/
  | poll
  /-- R290 `consume`. -/
  | consume
  /-- R290 `refresh`. -/
  | refresh (v : Byte)
deriving DecidableEq, Repr

/-- A direct access to the register space by offset (R61, R62). -/
inductive RegAccess where
  | read (offset : BitVec 3)
  | write (offset : BitVec 3) (v : Byte)
deriving DecidableEq, Repr

/-- One turn of one agent: which agent moves next (R6), with the draw it makes (log entry 1). -/
inductive Turn where
  /-- An operation word is issued on device `d` (R104, R215). -/
  | issue (d : Nat) (issuer : Issuer) (w : OpWord)
  /-- Another action of `Host(d)` (R370, R290). -/
  | host (d : Nat) (a : HostAct)
  /-- `Engine(d)` runs its stage (R40). -/
  | engine (d : Nat)
  /-- `Xcvr(d)` moves on the open bus, its draws being `code` and `b` (R150, R156, R161). -/
  | xcvr (d : Nat) (code : Status) (b : Byte)
  /-- `Handler(d)` runs one invocation (R281). -/
  | handler (d : Nat)
  /-- A joint step of the closed bus (R314–R319). -/
  | joint
  /-- A direct register access (R61, R345). -/
  | direct (d : Nat) (acc : RegAccess)
  /-- The reset event of device `d` (R380). -/
  | reset (d : Nat)
  /-- All devices are reset together (R380). -/
  | resetAll
deriving DecidableEq, Repr

/-- The whole system. -/
structure State where
  /-- The parameters of R7; no step changes them. -/
  cfg : Config
  /-- The devices (R373); on the closed bus device 0 is `M` and device `k` is `S_k` (R310). -/
  devs : List Device
  /-- `bus.target` (R311): the addressed slave's number, from 1. -/
  target : Option Nat
  /-- The device whose agent moves (the model's own field, log entry 1). -/
  cur : Nat
  /-- Who issues the operation (the model's own field, log entry 13). -/
  issuer : Issuer
  /-- The turns still to come, oldest first (the model's own field, log entry 1). -/
  inputs : List Turn
deriving DecidableEq, Repr

/-- Where a step has no next state. The spec's faults are no such stop: they are next states (R345, log
entries 3, 18). -/
inductive Fault where
  /-- A turn names a device the system does not have (log entry 28). Raised by every turn of a device.
  Safe: the model stops. -/
  | noSuchDevice
deriving DecidableEq, Repr

/-- Where the model gives an instruction no meaning. The spec's X1–X13 are no such stop: they are next
states (R346, log entry 3). -/
inductive Refusal where
  /-- The instruction has no meaning yet; raised by `exec` only. Safe: the model stops. -/
  | notModelled (mnemonic : String)
deriving DecidableEq, Repr

/-- The machine's own three outcomes. -/
abbrev Result := Host.Outcome State Fault Refusal

/-- R41: no operation has run yet. -/
def Latches.unwritten : Latches :=
  { addr := none, cmd := none, code := none, byte := none, outcome := none }

/-- The fields of a value of `CTRL` (R21–R28, R91). -/
def Ctrl.ofByte (L : CtrlLayout) (v : Byte) : Ctrl :=
  { int := ctrlI L v, ea := ctrlE L v, sta := ctrlS L v, sto := ctrlP L v, wc := ctrlW L v
    en := ctrlN L v, ie := ctrlQ L v }

/-- A device after its reset event (R46, R380), given the registers' reset values and layout (R3), the
device's parameters and the number of free values already drawn, which no reset rewinds (log entry 5). -/
def Device.afterReset (C : Chip) (par : DevParams) (draws : Nat) : Device :=
  { par := par
    ctrl := .ofByte C.ctrl C.reset.ctrl
    ps := C.reset.ps
    data := C.reset.data
    oadr := C.reset.oadr
    br := C.reset.br
    phase := .noInfo
    pend := .none
    txbyte := none
    ack := none
    role := .unconfigured
    stage := .idle
    eng := .unwritten
    cell := 0x00
    resp := par.respInit
    gie := false
    faults := []
    refused := false
    lastRefusal := none
    ret := .none
    fg := .poll
    draws := draws }

/-- The system right after reset, for any parameters: every device at R46, `bus.target` none (R311),
nothing scheduled. -/
def State.resetWith (cfg : Config) (pars : List DevParams) : State :=
  { cfg := cfg
    devs := pars.map fun p => .afterReset cfg.chip p 0
    target := none
    cur := 0
    issuer := .host
    inputs := [] }

/-- The defaults of R7; `fCpu` and `busMode` are OPEN there and chosen here (log entry 4). -/
def defaultConfig : Config :=
  { fCpu := 16000000, brMin := 10, busMode := .openBus, busFair := false, overlap := .serialise
    chip := standardChip }

/-- The OPEN parameters of device `id` in `State.reset` (log entry 4). -/
def defaultParams (id : Nat) : DevParams :=
  { id := id, slaveAddr := 0x2A, reqMarker := 0x52, respInit := 0x00 }

/-- The machine right after reset: a master to be and one slave to be (`N_SLAVES = 1`, log entry 4). -/
def State.reset : State :=
  State.resetWith defaultConfig [defaultParams 0, defaultParams 1]

end Sys2Proof.Machine
end

