-- ==== Sys2Proof/Machine/Flags.lean ====
section
/-! DEFINITION. Status flags: the phase sets of `40_transceiver.md`, the read-back of `CTRL` and `STAT`
(R32, R175), the interrupt request (R179, R350) and the interpretation of status codes (R241, R243). -/

namespace Sys2Proof.Machine

/-! ### The phase sets (`40_transceiver.md`) -/

/-- `OWNER`: the master holds the bus. -/
def ownerPhases : List Status :=
  [.start, .repStart, .mtSlaAck, .mtSlaNack, .mtDataAck, .mtDataNack,
   .mrSlaAck, .mrSlaNack, .mrDataAck, .mrDataNack]
/-- `ADDR_PH`. -/
def addrPhases : List Status := [.start, .repStart]
/-- `MT_PH`. -/
def mtPhases : List Status := [.mtSlaAck, .mtSlaNack, .mtDataAck, .mtDataNack]
/-- `MR_PH`. -/
def mrPhases : List Status := [.mrSlaAck, .mrDataAck]
/-- `MR_LAST`. -/
def mrLastPhases : List Status := [.mrSlaNack, .mrDataNack]
/-- `SR_OWN`. -/
def srOwnPhases : List Status := [.srSlaAck, .srArbLostSlaAck, .srDataAck]
/-- `SR_GC`. -/
def srGcPhases : List Status := [.srGcallAck, .srArbLostGcallAck, .srGcallDataAck]
/-- `ST_PH`. -/
def stPhases : List Status := [.stSlaAck, .stArbLostSlaAck, .stDataAck]
/-- `SR_END`. -/
def srEndPhases : List Status := [.srDataNack, .srGcallDataNack, .srStop, .stDataNack, .stLastData]
/-- `ANY`: every code of R97 but 0xF8. -/
def anyCodes : List Status := Status.all.filter (· != .noInfo)

def Status.isOwner (p : Status) : Bool := ownerPhases.contains p
def Status.isAddr (p : Status) : Bool := addrPhases.contains p
def Status.isMt (p : Status) : Bool := mtPhases.contains p
def Status.isMr (p : Status) : Bool := mrPhases.contains p
def Status.isMrLast (p : Status) : Bool := mrLastPhases.contains p
def Status.isSrOwn (p : Status) : Bool := srOwnPhases.contains p
def Status.isSrGc (p : Status) : Bool := srGcPhases.contains p
def Status.isSt (p : Status) : Bool := stPhases.contains p
def Status.isSrEnd (p : Status) : Bool := srEndPhases.contains p
/-- `SR_OWN ∪ SR_GC ∪ ST_PH`: an addressed slave (R141, R161). -/
def Status.isAddressed (p : Status) : Bool := p.isSrOwn || p.isSrGc || p.isSt

/-- `pend ∈ {Stop, StopThenStart}` (R143, R146, R156). -/
def Pend.isStop : Pend → Bool
  | .stop | .stopThenStart => true
  | .none | .start | .byte => false

/-! ### Register read-back -/

/-- The value of a read of `CTRL` (R175): `INT ++ EA ++ STA ++ STO ++ WC ++ EN ++ 0 ++ IE`, each at
its place in the layout (R91). -/
def Ctrl.toByte (L : CtrlLayout) (c : Ctrl) : Byte :=
  ctrlWord L c.int c.ea c.sta c.sto c.wc c.en c.ie

/-- The value of a read of `STAT` (R32): the phase while `INT = 1`, else 0xF8, with `PS` at its place. -/
def Device.stat (C : Chip) (d : Device) : Byte :=
  C.status.codeOf (if d.ctrl.int then d.phase else .noInfo) ||| C.stat.placePs d.ps

/-- The status code (R95): `REG(STAT) & 0xF8`, the mask being the layout's. -/
def Device.statusCode (C : Chip) (d : Device) : Byte := d.stat C &&& C.stat.mask

/-- `GCE` (R34). -/
def Device.gce (O : OadrLayout) (d : Device) : Bool := d.oadr.getLsbD O.gce

/-- The own address, `OADR[7:1]` in the spec's layout (R34). -/
def Device.ownAddr (O : OadrLayout) (d : Device) : Addr := d.oadr.extractLsb' O.addrLo 7

/-- `IRQ = CTRL.INT ∧ CTRL.IE ∧ CTRL.EN` (R179, R350). -/
def Device.irq (d : Device) : Bool := d.ctrl.int && d.ctrl.ie && d.ctrl.en

/-- A halted agent takes no further step (R345). -/
def Device.halted (d : Device) (a : Agent) : Bool := d.faults.any (·.agent == a)

/-- The handler may run (R280, R350): on a slave device, with `IRQ ∧ GIE`, unless a fault of its own
has stopped it (R345). -/
def Device.handlerEnabled (d : Device) : Bool :=
  d.role == .slave && d.irq && d.gie && !d.halted .handler

/-! ### Status interpretation -/

/-- The accept sets `ACC` of R241, by name (R248). -/
def accWcAddr : List Status := [.mtSlaAck]
def accWcData : List Status := [.mtDataAck]
def accRrAddr : List Status := [.mrSlaAck]
def accRrRead : List Status := [.mrDataAck, .mrDataNack]

/-- `PROCEED` (R98, R240). -/
def proceedCodes : List Status := [.mtSlaAck, .mrSlaAck, .mtDataAck, .mrDataAck, .mrDataNack]

/-- `NOACK` (R243). -/
def noAckCodes : List Status := [.mtSlaNack, .mtDataNack, .mrSlaNack]

/-- `ARBL` (R243). -/
def arbLostCodes : List Status := [.arbLost, .srArbLostSlaAck, .srArbLostGcallAck, .stArbLostSlaAck]

/-- `classify` (R243). -/
def classify (T : StatusTable) (code : Byte) : EngOutcome :=
  if T.isOneOf code noAckCodes then .noAck code
  else if T.isOneOf code arbLostCodes then .arbLost code
  else .unexpected code

end Sys2Proof.Machine
end

