-- ==== Sys2Proof/Machine/Operands.lean ====
section
/-! DEFINITION. Operand forms: address bytes (R100, R101), the prescaler and bit-rate computation
(R8, R102, R200) and the control words the primitives write (R94). -/

namespace Sys2Proof.Machine

/-- `SLA8(addr, dir)` (R100): `dir` is true for a read. -/
def sla8 (addr : Addr) (dir : Bool) : Byte :=
  (addr.zeroExtend 8 <<< 1) ||| (BitVec.ofBool dir).zeroExtend 8

/-- `OADR8(addr)` (R101): the address at its place in `OADR`, with `GCE = 0`. -/
def oadr8 (O : OadrLayout) (addr : Addr) : Byte := addr.zeroExtend 8 <<< O.addrLo.val

/-- The four prescaler values (R102). -/
inductive Prescaler where
  | by1 | by4 | by16 | by64
deriving DecidableEq, Repr

/-- The divisor (R102). -/
def Prescaler.value : Prescaler → Int
  | .by1 => 1 | .by4 => 4 | .by16 => 16 | .by64 => 64

/-- `PSENC` (R102). -/
def Prescaler.enc (P : PrescalerBits) : Prescaler → BitVec 2
  | .by1 => P.by1 | .by4 => P.by4 | .by16 => P.by16 | .by64 => P.by64

/-- The requested prescaler, or 1 if it is none of {1, 4, 16, 64} (R200 line 1). -/
def Prescaler.ofRequest (presc : Byte) : Prescaler :=
  if presc = 4 then .by4 else if presc = 16 then .by16 else if presc = 64 then .by64 else .by1

/-- `BITRATE_FN(F_CPU, scl, presc)` (R7). -/
def bitrate (cfg : Config) (scl presc : Int) : Int := cfg.chip.bitrate.eval cfg.fCpu scl presc

/-- The prescaler and bit-rate value R200 line 1 arrives at, before the range check: the request, or
prescaler 1 when the request's value is below `BR_MIN`. -/
def chooseRate (cfg : Config) (presc : Byte) (sclKhz : BitVec 16) : Prescaler × Int :=
  let scl : Int := (sclKhz.toNat : Int) * 1000
  let p := Prescaler.ofRequest presc
  let br := bitrate cfg scl p.value
  if br < cfg.brMin then (.by1, bitrate cfg scl Prescaler.by1.value) else (p, br)

/-- The prescaler that `STAT.PS` encodes (R102). -/
def Prescaler.ofEnc (P : PrescalerBits) (ps : BitVec 2) : Prescaler :=
  if ps = P.by1 then .by1 else if ps = P.by4 then .by4 else if ps = P.by16 then .by16 else .by64

/-- The bus clock in Hz that `BR` and `STAT.PS` select (R406). No rule reads it: the model has no time. -/
def busClock (cfg : Config) (d : Device) : Int :=
  Int.tdiv cfg.fCpu (16 + 2 * (d.br.toNat : Int) * (Prescaler.ofEnc cfg.chip.presc d.ps).value)

/-! ### The control words of R94 that depend on an operand or on `CTRL` -/

/-- `read_byte A`. -/
def wordReadByte (W : ControlWords) (a : Bool) : Byte := if a then W.readByteAck else W.readByteNack
/-- `(CTRL & 0x45) OR 0x80`. -/
def wordClearEvent (W : ControlWords) (ctrl : Byte) : Byte :=
  (ctrl &&& W.clearEventKeep) ||| W.clearEventSet
/-- `(CTRL & 0x45) OR 0x90`. -/
def wordRecover (W : ControlWords) (ctrl : Byte) : Byte := (ctrl &&& W.recoverKeep) ||| W.recoverSet
/-- `(CTRL & 0x05) OR (e << 6)`. -/
def wordSetAck (W : ControlWords) (ctrl : Byte) (a : Bool) : Byte :=
  (ctrl &&& W.setAckKeep) ||| (if a then W.setAckBit else 0)

end Sys2Proof.Machine
end

