-- ==== Sys2Proof/Machine/Ops.lean ====
section
/-! DEFINITION. The named operations: the effect of one agent's step on one device, fault and refusal
(R345, R346), register and cell accesses (R61, R66, R172–R175), the control write (R141–R149), the
handler's entry and return (R352), the context checks (R215), and running an effect on the device
whose agent moves. -/

namespace Sys2Proof.Machine

/-- The effect of one agent's step on its device. -/
inductive Eff where
  /-- The step is done. -/
  | done (d : Device)
  /-- `raise Fault(reason)` (R345), the device being as it was before the faulting write. -/
  | fault (r : FaultReason) (d : Device)
  /-- `refuse(reason)` (R346). -/
  | refuse (r : RefuseReason)
deriving DecidableEq, Repr

/-- Continue after a step that is done. -/
def Eff.bind (e : Eff) (f : Device → Eff) : Eff :=
  match e with
  | .done d => f d
  | .fault r d => .fault r d
  | .refuse r => .refuse r

/-- Continue with a plain update. -/
def Eff.map (e : Eff) (f : Device → Device) : Eff := e.bind fun d => .done (f d)

/-! ### Faults and refusals -/

/-- `faults ∪ {(reason, agent, stage)}` (R345). -/
def Device.raise (d : Device) (r : FaultReason) (a : Agent) : Device :=
  let m : FaultMark := { reason := r, agent := a, stage := d.stage }
  { d with faults := if d.faults.contains m then d.faults else m :: d.faults }

/-- `refuse(reason)` (R346): the mark is set and nothing else of the spec's state changes. -/
def Device.refuse (d : Device) (r : RefuseReason) : Device :=
  { d with refused := true, lastRefusal := some r }

/-- The device after an effect of agent `a` that began at `d0`: R345 for a fault, R346 for a refusal
(the whole step is undone). -/
def Eff.settle (a : Agent) (d0 : Device) : Eff → Device
  | .done d => d
  | .fault r d => d.raise r a
  | .refuse r => d0.refuse r

/-! ### Named updates -/

/-- `stage <- s` (R9). -/
def Device.goto (d : Device) (s : Stage) : Device := { d with stage := s }

/-- `return` of a value to the host (R9). -/
def Device.returning (d : Device) (r : Ret) : Device := { d with ret := r }

/-- A bus event: `phase <- code; pend <- None; CTRL.INT <- 1` (R150, R161). -/
def Device.event (d : Device) (code : Status) : Device :=
  { d with phase := code, pend := .none, ctrl := { d.ctrl with int := true } }

/-- `phase <- 0xF8; pend <- None`: the transceiver is unaddressed and off the bus (R142, R144, R147). -/
def Device.unaddressed (d : Device) : Device := { d with phase := .noInfo, pend := .none }

/-! ### Register and cell accesses -/

/-- A read of `DATA` (R174): while `INT = 0` it is a free value (log entry 5), and the counter of such
reads advances. -/
def readData (d : Device) : Byte × Device :=
  if d.ctrl.int then (d.data, d)
  else (Config.busyData d.par.id d.draws, { d with draws := d.draws + 1 })

/-- A write of `DATA` (R172, R173). -/
def writeData (v : Byte) (d : Device) : Device :=
  if d.ctrl.int then { d with data := v, ctrl := { d.ctrl with wc := false } }
  else { d with ctrl := { d.ctrl with wc := true } }

/-- A write of `STAT` changes only `PS` (R29). -/
def writeStat (L : StatLayout) (v : Byte) (d : Device) : Device := { d with ps := L.psOf v }

/-- A write of `OADR` (R66, R175). -/
def writeOadr (v : Byte) (d : Device) : Device := { d with oadr := v }

/-- A write of `BR` (R66, R175). -/
def writeBr (v : Byte) (d : Device) : Device := { d with br := v }

/-- `MemWrite(CELL, 1, v)` (R66). -/
def writeCell (v : Byte) (d : Device) : Device := { d with cell := v }

/-- `MemWrite(RESP, 1, v)` (R66). -/
def writeResp (v : Byte) (d : Device) : Device := { d with resp := v }

/-! ### The control write -/

/-- R93: the control words that are reserved while `CTRL.STO` is `sto`. -/
def reservedWord (L : CtrlLayout) (v : Byte) (sto : Bool) : Bool :=
  ctrlR L v || (ctrlI L v && ctrlS L v && ctrlP L v) || (ctrlI L v && !ctrlN L v) ||
  (!ctrlI L v && ctrlS L v) || (!ctrlI L v && ctrlP L v != sto)

/-- The busy test of R141: a start or byte step is in flight and no event is pending, unless an
addressed slave waits on the remote master. -/
def Device.busy (d : Device) : Bool :=
  (d.pend == .start || d.pend == .byte) && !d.ctrl.int && !(d.pend == .byte && d.phase.isAddressed)

/-- The field updates of R141: `EA`, `STA`, `STO`, `EN` and `IE` from the word; `WC` and bit 1 are not
written (R25, R27). -/
def Device.writeFields (d : Device) (L : CtrlLayout) (v : Byte) : Device :=
  { d with ctrl := { d.ctrl with ea := ctrlE L v, sta := ctrlS L v, sto := ctrlP L v, en := ctrlN L v,
                                 ie := ctrlQ L v } }

/-- `CTRL.INT <- b`. -/
def Device.setInt (d : Device) (b : Bool) : Device := { d with ctrl := { d.ctrl with int := b } }

/-- `CTRL.STO <- b`. -/
def Device.setSto (d : Device) (b : Bool) : Device := { d with ctrl := { d.ctrl with sto := b } }

/-- `pend <- p`. -/
def Device.setPend (d : Device) (p : Pend) : Device := { d with pend := p }

/-- R148: the transceiver switches off. -/
def Device.switchOff (d : Device) : Device := ((d.unaddressed).setInt false).setSto false

/-- R142 after the field updates: `en` is `CTRL.EN` before the write. -/
def configCmd (en : Bool) (w : Device) : Device :=
  if !w.ctrl.en then w.switchOff else if !en then w.unaddressed else w

/-- R143, on the device `w` after the field updates; `d` is the device before the write. -/
def startCmd (cfg : Config) (d w : Device) : Eff :=
  if w.pend.isStop then
    match cfg.overlap with
    | .serialise => .done ((w.setPend .stopThenStart).setSto true)
    | .fault => .fault .startDuringStop d
  else .done (w.setPend .start)

/-- R146, R147. A stop that is already pending stays as it is, whatever the phase (R204, U26; log
entry 11). -/
def stopCmd (w : Device) : Device :=
  if w.pend.isStop then w
  else if w.phase.isOwner then w.setPend .stop
  else (w.setSto false).unaddressed

/-- R144, on the device `w` after the field updates; `d` is the device before the write. The slave
transmitter's row latches `ack` too, since R164 reads it (log entry 9). -/
def continueCmd (d w : Device) : Eff :=
  if !d.ctrl.int then .fault .continueWithoutEvent d
  else if w.phase.isAddr || w.phase.isMt then .done { w with txbyte := some w.data, pend := .byte }
  else if w.phase.isMr then .done { w with ack := some w.ctrl.ea, pend := .byte }
  else if w.phase.isMrLast then .fault .continueAfterLastByte d
  else if w.phase == .arbLost then .done w.unaddressed
  else if w.phase.isSrOwn || w.phase.isSrGc then .done { w with ack := some w.ctrl.ea, pend := .byte }
  else if w.phase.isSt then
    .done { w with txbyte := some w.data, ack := some w.ctrl.ea, pend := .byte }
  else if w.phase.isSrEnd then .done w.unaddressed
  else if w.phase == .busError then .done { w with pend := .byte }
  else .fault .continueWithoutEvent d

/-- `REG(CTRL) <- v` (R141). -/
def ctrlWrite (cfg : Config) (v : Byte) (d : Device) : Eff :=
  let L := cfg.chip.ctrl
  if reservedWord L v d.ctrl.sto then .refuse .reservedControlWord
  else if ctrlI L v && d.busy then .fault .commandWhileBusy d
  else
    let w := d.writeFields L v
    if !ctrlI L v then .done (configCmd d.ctrl.en w)
    else
      let w := w.setInt false
      if ctrlS L v then startCmd cfg d w
      else if ctrlP L v then .done (stopCmd w)
      else continueCmd d w

/-! ### The single-line primitives, as the host's engine and the handler both run them -/

/-- R204 line 1. -/
def stopLine (cfg : Config) (d : Device) : Eff := ctrlWrite cfg cfg.chip.words.stop d
/-- R207 line 1. -/
def armForReplyLine (cfg : Config) (d : Device) : Eff := ctrlWrite cfg cfg.chip.words.armForReply d
/-- R208 line 1. -/
def loadDataLine (b : Byte) (d : Device) : Eff := .done (writeData b d)
/-- R209 line 1. -/
def readDataLine (d : Device) : Eff := .done ((readData d).2.returning (.byte (readData d).1))
/-- R211 line 1: the read and the write are one step. -/
def clearEventLine (cfg : Config) (d : Device) : Eff :=
  ctrlWrite cfg (wordClearEvent cfg.chip.words (d.ctrl.toByte cfg.chip.ctrl)) d
/-- R212 line 1: the read and the write are one step. -/
def recoverLine (cfg : Config) (d : Device) : Eff :=
  ctrlWrite cfg (wordRecover cfg.chip.words (d.ctrl.toByte cfg.chip.ctrl)) d
/-- R213 line 1. -/
def readStatusLine (C : Chip) (d : Device) : Eff := .done (d.returning (.code (d.statusCode C)))

/-! ### The interrupt (R350–R353): the block's one exception -/

/-- Entry (R352): the platform clears `GIE`. The block saves nothing. -/
def takeInterrupt (d : Device) : Device := { d with gie := false }

/-- Return (R352): the platform sets `GIE`; the foreground resumes where it was. -/
def returnFromInterrupt (d : Device) : Device := { d with gie := true }

/-- One invocation of the handler: entry, the class's action, return, all one step (R281, R352). -/
def handlerInvocation (action : Device → Eff) (d : Device) : Eff :=
  (action (takeInterrupt d)).map returnFromInterrupt

/-! ### Context checks -/

/-- What a master device's host may issue (R215.2). -/
def masterOps : List OpKind :=
  [.configureMaster, .start, .stop, .writeByte, .readByte, .loadData, .readData, .setAck,
   .readStatus, .writeCommand, .readResponse]

/-- What a slave device's handler issues (R215.3). -/
def handlerOps : List OpKind :=
  [.readStatus, .readData, .loadData, .armForReply, .clearEvent, .recover]

/-- R215.4: the host's issue while an operation is in flight. -/
def inFlightCheck (d : Device) : Option RefuseReason :=
  if d.stage = .idle then none else some .operationInFlight

/-- On the closed bus device 0 is the one master `M` and every other device a slave `S_k` (R310). -/
def roleOnBus (cfg : Config) (k : Nat) : Option Role :=
  match cfg.busMode with
  | .openBus => none
  | .closedBus => some (if k = 0 then .master else .slave)

/-- A configure for the other role than the closed bus gives the device. -/
def configuresOtherRole (busRole : Option Role) (op : OpKind) : Bool :=
  (op == .configureMaster && busRole == some .slave) ||
  (op == .configureSlave && busRole == some .master)

/-- The context checks of R215, the first that fails; `none` when the operation is admitted. A
configure for the other role is `RoleConflict` on a slave too (R36, R200; log entry 12), and so it is
for the role a closed bus gives the device (R310; log entry 30). -/
def contextCheck (busRole : Option Role) (who : Issuer) (op : OpKind) (d : Device) :
    Option RefuseReason :=
  match d.role, who with
  | .unconfigured, .host =>
    if op = .configureMaster ∨ op = .configureSlave then
      if configuresOtherRole busRole op then some .roleConflict else inFlightCheck d
    else some .notConfigured
  | .unconfigured, .handler => some .notConfigured
  | .master, .host => if masterOps.contains op then inFlightCheck d else some .roleConflict
  | .master, .handler => some .roleConflict
  | .slave, .host =>
    if op = .configureSlave then
      if configuresOtherRole busRole op then some .roleConflict else inFlightCheck d
    else if op = .configureMaster then some .roleConflict
    else some .hostTouchesSlaveTransceiver
  | .slave, .handler =>
    if handlerOps.contains op then none else some .hostTouchesSlaveTransceiver

/-! ### Running an effect on the device whose agent moves -/

/-- The state with the moving device replaced. -/
def State.setCur (s : State) (d : Device) : State := { s with devs := s.devs.set s.cur d }

/-- Run a step of the moving device. -/
def onCur (s : State) (f : Device → Device) : Result :=
  match s.devs[s.cur]? with
  | none => .fault .noSuchDevice
  | some d => .next (s.setCur (f d))

end Sys2Proof.Machine
end

