-- ==== Sys2Proof/Machine/Xcvr.lean ====
section
/-! DEFINITION. The transceiver's own steps on the open bus: completions (R150–R160), stop execution
(R156) and slave events (R161–R165). The draws are the turn's `code` and `b`; every member of the
relations is admitted and nothing else (log entries 1, 2). -/

namespace Sys2Proof.Machine

/-- `ARB(ea, gce)`. -/
def arbCodes (ea gce : Bool) : List Status :=
  [.arbLost] ++ (if ea then [.srArbLostSlaAck, .stArbLostSlaAck] else []) ++
  (if ea && gce then [.srArbLostGcallAck] else [])

/-- The relation `C` (R160) at a device, for `pend ∈ {Start, Byte}`; no value where it reads a latch
that holds none. -/
def completionCodes (O : OadrLayout) (d : Device) : Option (List Status) :=
  let arb := arbCodes d.ctrl.ea (d.gce O)
  match d.pend with
  | .start => some [if d.phase.isOwner then .repStart else .start, .busError]
  | .byte =>
    if d.phase.isAddr then
      d.txbyte.map fun t =>
        (if t.getLsbD 0 then [.mrSlaAck, .mrSlaNack] else [.mtSlaAck, .mtSlaNack]) ++ arb ++ [.busError]
    else if d.phase.isMt then some ([.mtDataAck, .mtDataNack] ++ arb ++ [.busError])
    else if d.phase.isMr then
      d.ack.map fun a => [if a then .mrDataAck else .mrDataNack] ++ arb ++ [.busError]
    else if d.phase == .busError then some anyCodes
    else some []
  | .none | .stop | .stopThenStart => some []

/-- R150: a completion is enabled. -/
def completionEnabled (d : Device) : Bool :=
  d.ctrl.en && !d.ctrl.int &&
  (d.pend == .start ||
   (d.pend == .byte && (d.phase.isAddr || d.phase.isMt || d.phase.isMr || d.phase == .busError)))

/-- Does the completion draw `DATA`? R150: a receive, or any completion from `phase = 0x00` (log
entry 10). -/
def completionDrawsData (d : Device) : Bool :=
  (d.pend == .byte && d.phase.isMr) || d.phase == .busError

/-- The completion's effect (R150). -/
def complete (code : Status) (b : Byte) (d : Device) : Device :=
  (if completionDrawsData d then { d with data := b } else d).event code

/-- R156: stop execution is enabled. -/
def stopEnabled (d : Device) : Bool := d.pend.isStop && d.ctrl.en

/-- `pend` after a stop has been executed (R156, R319). -/
def Pend.afterStop : Pend → Pend
  | .stopThenStart => .start
  | .none | .start | .byte | .stop => .none

/-- R156: the stop's effect. -/
def executeStop (d : Device) : Device :=
  { d.setSto false with phase := .noInfo, pend := d.pend.afterStop }

/-- R161: a slave event is enabled. -/
def slaveEventEnabled (d : Device) : Bool :=
  d.ctrl.en && !d.ctrl.int && !d.ctrl.sto &&
  ((d.pend == .none && d.phase == .noInfo) || (d.pend == .byte && d.phase.isAddressed))

/-- The relation `E` (R165) at a device; no value where it reads a latch that holds none. -/
def eventCodes (O : OadrLayout) (d : Device) : Option (List Status) :=
  match d.pend with
  | .none =>
    some ((if d.ctrl.ea then [.srSlaAck, .stSlaAck] else []) ++
      (if d.ctrl.ea && d.gce O then [.srGcallAck] else []) ++ [.busError])
  | .byte =>
    if d.phase.isSrOwn then
      d.ack.map fun a => [if a then .srDataAck else .srDataNack, .srStop, .busError]
    else if d.phase.isSrGc then
      d.ack.map fun a => [if a then .srGcallDataAck else .srGcallDataNack, .srStop, .busError]
    else if d.phase.isSt then
      d.ack.map fun a => [if a then .stDataAck else .stLastData, .stDataNack, .busError]
    else some []
  | .start | .stop | .stopThenStart => some []

/-- The events with a received byte (R161). -/
def eventDrawsData (code : Status) : Bool :=
  [Status.srDataAck, .srDataNack, .srGcallDataAck, .srGcallDataNack].contains code

/-- The slave event's effect (R161). -/
def slaveEvent (code : Status) (b : Byte) (d : Device) : Device :=
  (if eventDrawsData code then { d with data := b } else d).event code

/-- Take a step with the drawn code, if the relation admits the draw; otherwise no step. Where the
relation reads a latch that holds no value, the transceiver faults (R41, U27; log entry 18). -/
def drawn (codes : Option (List Status)) (code : Status) (d go : Device) : Device :=
  match codes with
  | some cs => if cs.contains code then go else d
  | none => d.raise .unwrittenLatch .xcvr

/-- A step of `Xcvr(d)` on the open bus with the draws `code` and `b`; no enabled step leaves the
device as it is. At most one kind of step is enabled. A halted transceiver takes none (R345). -/
def xcvrStep (O : OadrLayout) (code : Status) (b : Byte) (d : Device) : Device :=
  if d.halted .xcvr then d
  else if completionEnabled d then drawn (completionCodes O d) code d (complete code b d)
  else if stopEnabled d then executeStop d
  else if slaveEventEnabled d then drawn (eventCodes O d) code d (slaveEvent code b d)
  else d

end Sys2Proof.Machine
end

