-- ==== Sys2Proof/Machine/Bus.lean ====
section
/-! DEFINITION. The closed bus (R310–R319): the joint steps of the master device (device 0) and its
slaves (device `k` is `S_k`), and `bus.target` (R311). -/

namespace Sys2Proof.Machine

/-- What a joint step changes: `M`, the slaves in order, and `bus.target`. -/
structure BusMove where
  master : Device
  slaves : List Device
  target : Option Nat
deriving DecidableEq, Repr

/-- `S_k`, for `k` from 1. -/
def slaveAt (slaves : List Device) (k : Nat) : Option Device :=
  if k = 0 then none else slaves[k - 1]?

/-- Replace `S_k`. -/
def setSlave (slaves : List Device) (k : Nat) (d : Device) : List Device := slaves.set (k - 1) d

/-- The addressed slave and its number, if `bus.target = k`. -/
def targetSlave (m : BusMove) : Option (Nat × Device) :=
  match m.target with
  | none => none
  | some k => (slaveAt m.slaves k).map fun d => (k, d)

/-- R315: does `S_k` answer the address `a`? -/
def answers (O : OadrLayout) (a : Addr) (d : Device) : Bool :=
  d.ctrl.en && d.ctrl.ea && d.ownAddr O == a && d.phase == .noInfo && d.pend == .none

/-- R315: the set `K`, as the numbers of the slaves that answer, counted from `k`. -/
def answering (O : OadrLayout) (a : Addr) : Nat → List Device → List Nat
  | _, [] => []
  | k, d :: ds => if answers O a d then k :: answering O a (k + 1) ds else answering O a (k + 1) ds

/-- R314: a repeated start ends the addressed slave's transfer with 0xA0. -/
def endTransfer (m : BusMove) (needByte : Bool) : BusMove :=
  match targetSlave m with
  | some (k, d) =>
    if d.phase.isAddressed && (!needByte || d.pend == .byte) then
      { m with slaves := setSlave m.slaves k (d.event .srStop), target := none }
    else { m with target := none }
  | none => { m with target := none }

/-- R314. -/
def jointStart (m : BusMove) : BusMove :=
  if m.master.phase.isOwner then
    let e := endTransfer m false
    { e with master := m.master.event .repStart }
  else { m with master := m.master.event .start }

/-- R315, the byte sent being `t`: a single answering slave, or nobody (log entry 19). -/
def jointAddress (O : OadrLayout) (t : Byte) (m : BusMove) : BusMove :=
  let read := t.getLsbD 0
  let nobody : BusMove :=
    { m with master := m.master.event (if read then .mrSlaNack else .mtSlaNack), target := none }
  match answering O (t.extractLsb' 1 7) 1 m.slaves with
  | [k] =>
    match slaveAt m.slaves k with
    | some d =>
      { master := m.master.event (if read then .mrSlaAck else .mtSlaAck)
        slaves := setSlave m.slaves k (d.event (if read then .stSlaAck else .srSlaAck))
        target := some k }
    | none => nobody
  | _ => nobody

/-- R316, the byte sent being `t`; no value where `ack_k` holds none. -/
def jointTransmit (t : Byte) (m : BusMove) : Option BusMove :=
  let noReceiver : BusMove := { m with master := m.master.event .mtDataNack }
  match targetSlave m with
  | some (k, d) =>
    if d.phase.isSrOwn && d.pend == .byte then
      d.ack.map fun a =>
        { m with
          master := m.master.event (if a then .mtDataAck else .mtDataNack)
          slaves := setSlave m.slaves k
            (({ d with data := t }).event (if a then .srDataAck else .srDataNack)) }
    else some noReceiver
  | none => some noReceiver

/-- The slave's event when the master has received its byte (R317); no value where `ack_k` is read and
holds none. -/
def receiveEvent (ackM : Bool) (d : Device) : Option Status :=
  if ackM then d.ack.map fun a => if a then .stDataAck else .stLastData else some .stDataNack

/-- R317, `M`'s acknowledge latch being `ackM`; no value where `txbyte_k` or `ack_k` is read and holds
none. -/
def jointReceive (ackM : Bool) (m : BusMove) : Option BusMove :=
  let got (b : Byte) : Device :=
    ({ m.master with data := b }).event (if ackM then .mrDataAck else .mrDataNack)
  let released : BusMove := { m with master := got 0xFF }
  match targetSlave m with
  | some (k, d) =>
    if d.phase.isSt && d.pend == .byte then
      match d.txbyte, receiveEvent ackM d with
      | some t, some e =>
        some { m with master := got t, slaves := setSlave m.slaves k (d.event e) }
      | _, _ => none
    else some released
  | none => some released

/-- R319. -/
def jointStop (m : BusMove) : BusMove :=
  let e := endTransfer m true
  { e with master := executeStop m.master }

/-- R313 and the conditions common to all joint steps. They are steps of `M`'s transceiver (R312), so a
halted one takes none (R345; log entry 18). -/
def jointEnabled (m : BusMove) : Bool :=
  m.master.ctrl.en && !m.master.ctrl.int && !m.master.halted .xcvr &&
  m.slaves.all fun d => !d.ctrl.int

/-- The joint step `M`'s pending command selects (R314–R317, R319); with none pending, or a byte step
after a bus error (R312: none occurs), there is no joint step. No value where a latch that holds none
is read. -/
def jointMove (O : OadrLayout) (m : BusMove) : Option BusMove :=
  match m.master.pend with
  | .none => some m
  | .start => some (jointStart m)
  | .byte =>
    if m.master.phase.isAddr then m.master.txbyte.map fun t => jointAddress O t m
    else if m.master.phase.isMt then m.master.txbyte.bind fun t => jointTransmit t m
    else if m.master.phase.isMr then m.master.ack.bind fun a => jointReceive a m
    else some m
  | .stop | .stopThenStart => some (jointStop m)

/-- The system after a joint step. -/
def State.setBus (s : State) (m : BusMove) : State :=
  { s with devs := m.master :: m.slaves, target := m.target }

/-- A joint step of the closed bus; a step that is not enabled leaves the system as it is. One that
reads a latch that holds no value is a fault of `M`'s transceiver (log entry 18). -/
def jointStep (s : State) : Result :=
  match s.devs with
  | [] => .fault .noSuchDevice
  | d :: ds =>
    let m : BusMove := { master := d, slaves := ds, target := s.target }
    if jointEnabled m then
      match jointMove s.cfg.chip.oadr m with
      | some m' => .next (s.setBus m')
      | none => .next (s.setBus { m with master := d.raise .unwrittenLatch .xcvr })
    else .next s

end Sys2Proof.Machine
end

