-- ==== Sys2Proof/Machine/Control.lean ====
section
/-! DEFINITION. The meanings of the four control word classes (R142–R148), as a control write made
directly, outside the host interface (R345; log entry 14). -/

namespace Sys2Proof.Machine

/-- A slave device's transceiver belongs to its handler (R71, R141, R215.3): no direct access of its
host. -/
def touchesSlave (who : Issuer) (d : Device) : Bool := who == .host && d.role == .slave

/-- The agent that answers for what an issuer writes (R345). -/
def Issuer.agent : Issuer → Agent
  | .host => .host
  | .handler => .handler

/-- A direct control write (R141). -/
def directWrite (v : Byte) (s : State) : Result :=
  onCur s fun d =>
    if touchesSlave s.issuer d then d.refuse .hostTouchesSlaveTransceiver
    else (ctrlWrite s.cfg v d).settle s.issuer.agent d

/-- R142, R148. -/
def execCtrlConfig (ea sto wc en ie : Bool) (s : State) : Result :=
  directWrite (ctrlWord s.cfg.chip.ctrl false ea false sto wc en ie) s

/-- R144. -/
def execCtrlContinue (ea wc ie : Bool) (s : State) : Result :=
  directWrite (ctrlWord s.cfg.chip.ctrl true ea false false wc true ie) s

/-- R143. -/
def execCtrlStart (ea wc ie : Bool) (s : State) : Result :=
  directWrite (ctrlWord s.cfg.chip.ctrl true ea true false wc true ie) s

/-- R146, R147. -/
def execCtrlStop (ea wc ie : Bool) (s : State) : Result :=
  directWrite (ctrlWord s.cfg.chip.ctrl true ea false true wc true ie) s

end Sys2Proof.Machine
end

