-- ==== Sys2Proof/Machine/Handler.lean ====
section
/-! DEFINITION. The meanings of the seven handler keys (R282–R286): one invocation of the handler, one
atomic step (R281), for an event of that key. The `STAT` read that gives the key is the fetch
(`Turns.lean`). -/

namespace Sys2Proof.Machine

/-- Run one invocation of the handler on the moving device (R281). -/
def invokeHandler (action : Device → Eff) (s : State) : Result :=
  onCur s fun d => (handlerInvocation action d).settle .handler d

/-- R283 `ADDR_W`: clear the event flag, keep listening. -/
def addrWAction (cfg : Config) (d : Device) : Eff := clearEventLine cfg d

/-- R284 `DATA_RX`: store the byte into the cell, then clear the event flag. -/
def dataRxAction (cfg : Config) (d : Device) : Eff :=
  clearEventLine cfg (writeCell (readData d).1 (readData d).2)

/-- R285 `DATA_REQ`: load the response value, then arm for the reply. -/
def dataReqAction (cfg : Config) (d : Device) : Eff := armForReplyLine cfg (writeData d.resp d)

/-- R286 `OTHER`: clear the event flag and recover. -/
def otherAction (cfg : Config) (d : Device) : Eff := recoverLine cfg d

/-- R283, own address. -/
def execEvtAddrWOwn (s : State) : Result := invokeHandler (addrWAction s.cfg) s

/-- R283, general call. -/
def execEvtAddrWGeneral (s : State) : Result := invokeHandler (addrWAction s.cfg) s

/-- R284, own address. -/
def execEvtDataRxOwn (s : State) : Result := invokeHandler (dataRxAction s.cfg) s

/-- R284, general call. -/
def execEvtDataRxGeneral (s : State) : Result := invokeHandler (dataRxAction s.cfg) s

/-- R285, address match. -/
def execEvtDataReqAddress (s : State) : Result := invokeHandler (dataReqAction s.cfg) s

/-- R285, continuation. -/
def execEvtDataReqContinuation (s : State) : Result := invokeHandler (dataReqAction s.cfg) s

/-- R286; the key selects the class and has no other effect. -/
def execEvtOther (_key : Byte) (s : State) : Result := invokeHandler (otherAction s.cfg) s

end Sys2Proof.Machine
end

