-- ==== Sys2Proof/Machine/Engine.lean ====
section
/-! DEFINITION. The engine's stages: the lines of the primitives (R200–R213, R216) and the stages of
`write_command` and `read_response` (R245–R247). -/

namespace Sys2Proof.Machine

/-- `hold until REG(CTRL).INT == 1` (R202, R245): enabled only when `INT = 1`, it then moves on without
any other effect; until then nothing changes. -/
def hold (next : Stage) (d : Device) : Eff := .done (if d.ctrl.int then d.goto next else d)

/-- A single-line primitive issued by the host: its line, then `stage <- Idle` (R216). -/
def lastLine (line : Device → Eff) (d : Device) : Eff := (line d).map (·.goto .idle)

/-- R200 line 1, the context checks of R215 apart. -/
def configureMasterLine1 (cfg : Config) (presc : Byte) (sclKhz : BitVec 16) (d : Device) : Eff :=
  if d.role = .slave then .refuse .roleConflict
  else if d.ctrl.sto then .refuse .reservedControlWord
  else if sclKhz = 0 then .refuse .badClock
  else
    let (p, br) := chooseRate cfg presc sclKhz
    if br < 0 ∨ br > 255 then .refuse .bitRateOutOfRange
    else .done (d.goto (.configureMaster2 (p.enc cfg.chip.presc) (BitVec.ofInt 8 br)))

/-- R201 line 1, the context checks of R215 apart. -/
def configureSlaveLine1 (addr : Addr) (d : Device) : Eff :=
  if d.role = .master then .refuse .roleConflict
  else if addr = 0 then .refuse .reservedAddress
  else if d.ctrl.sto then .refuse .reservedControlWord
  else .done (d.goto (.configureSlave2 addr))

/-- R210 line 1. -/
def setAckLine1 (L : CtrlLayout) (a : Bool) (d : Device) : Eff :=
  if d.ctrl.sto then .refuse .setAckDuringStop else .done (d.goto (.setAck2 (d.ctrl.toByte L) a))

/-- `REG(CTRL) <- v`, then `stage <- next`. -/
def ctrlThen (cfg : Config) (v : Byte) (next : Stage) (d : Device) : Eff :=
  (ctrlWrite cfg v d).map (·.goto next)

/-- The `_load` stages: `REG(DATA) <- v`. -/
def loadThen (v : Byte) (next : Stage) (d : Device) : Eff := .done ((writeData v d).goto next)

/-- A `_test` stage (R241, R245): latch the masked code and choose the successor. -/
def testCode (C : Chip) (acc : List Status) (good bad : Stage) (d : Device) : Eff :=
  .done ({ d with eng := { d.eng with code := some (d.statusCode C) } }.goto
    (if C.status.isOneOf (d.statusCode C) acc then good else bad))

/-- `RR.read_test` reads `STAT`, then `DATA`, whatever the code (R247). -/
def readTest (C : Chip) (d : Device) : Eff :=
  let code := d.statusCode C
  let (b, d1) := readData d
  .done ({ d1 with eng := { d1.eng with code := some code, byte := some b } }.goto
    (if C.status.isOneOf code accRrRead then .rrFinish else .rrAbort))

/-- The `finish` and `abort` stages: `REG(CTRL) <- 0x94; eng.outcome <- o; stage <- Idle`. -/
def stopWith (cfg : Config) (o : EngOutcome) (d : Device) : Eff :=
  (stopLine cfg d).map fun d => ({ d with eng := { d.eng with outcome := some o } }).goto .idle

/-- Read a latch; the read of a latch that holds no value faults (R41, U27; log entry 18). -/
def withLatch {α : Type} (o : Option α) (f : α → Eff) (d : Device) : Eff :=
  match o with
  | some a => f a
  | none => .fault .unwrittenLatch d

/-- Latch an operation's operands and go to its first stage (R41, R246, R247 `issue`). -/
def latchOperands (latch : Latches → Latches) (first : Stage) (d : Device) : Eff :=
  .done (({ d with eng := latch d.eng }).goto first)

/-- One step of `Engine(d)`: the step its stage names (R40). At `Idle` there is none. The primitives'
`code` and `byte` (R205, R206, R209, R213) are values of theirs: only the `_test` stages of R246 and
R247, which name the latches, write `eng.code` and `eng.byte` (log entry 29). -/
def runStage (cfg : Config) (d : Device) : Eff :=
  let C := cfg.chip
  let T := C.status
  let W := C.words
  match d.stage with
  | .idle => .done d
  | .configureMaster1 presc scl => configureMasterLine1 cfg presc scl d
  | .configureMaster2 ps br => .done ((writeStat C.stat (C.stat.placePs ps) d).goto (.configureMaster3 br))
  | .configureMaster3 br => .done ((writeBr br d).goto .configureMaster4)
  | .configureMaster4 =>
    (ctrlWrite cfg W.configureMaster d).map fun d => ({ d with role := .master }).goto .idle
  | .configureSlave1 addr => configureSlaveLine1 addr d
  | .configureSlave2 addr => .done ((writeOadr (oadr8 C.oadr addr) d).goto .configureSlave3)
  | .configureSlave3 =>
    (ctrlWrite cfg W.configureSlave d).map fun d => ({ d with role := .slave }).goto .idle
  | .start1 => ctrlThen cfg W.start .start2 d
  | .start2 => hold .idle d
  | .stop1 => lastLine (stopLine cfg) d
  | .writeByte1 b => loadThen b .writeByte2 d
  | .writeByte2 => ctrlThen cfg W.writeByte .writeByte3 d
  | .writeByte3 => hold .writeByte4 d
  | .writeByte4 => .done ((d.returning (.code (d.statusCode C))).goto .idle)
  | .readByte1 a => ctrlThen cfg (wordReadByte W a) .readByte2 d
  | .readByte2 => hold .readByte3 d
  | .readByte3 => .done (d.goto (.readByte4 (d.statusCode C)))
  | .readByte4 code => .done (((readData d).2.returning (.byteCode (readData d).1 code)).goto .idle)
  | .armForReply1 => lastLine (armForReplyLine cfg) d
  | .loadData1 b => lastLine (loadDataLine b) d
  | .readData1 => lastLine readDataLine d
  | .setAck1 a => setAckLine1 C.ctrl a d
  | .setAck2 c a => ctrlThen cfg (wordSetAck W c a) .idle d
  | .clearEvent1 => lastLine (clearEventLine cfg) d
  | .recover1 => lastLine (recoverLine cfg) d
  | .readStatus1 => lastLine (readStatusLine C) d
  | .wcIssue addr b =>
    latchOperands (fun l => { l with addr := some addr, cmd := some b }) .wcStartGo d
  | .wcStartGo => ctrlThen cfg W.start .wcStartWait d
  | .wcStartWait => hold .wcAddrLoad d
  | .wcAddrLoad => withLatch d.eng.addr (fun a => loadThen (sla8 a false) .wcAddrGo d) d
  | .wcAddrGo => ctrlThen cfg W.writeByte .wcAddrWait d
  | .wcAddrWait => hold .wcAddrTest d
  | .wcAddrTest => testCode C accWcAddr .wcDataLoad .wcAbort d
  | .wcDataLoad => withLatch d.eng.cmd (fun c => loadThen c .wcDataGo d) d
  | .wcDataGo => ctrlThen cfg W.writeByte .wcDataWait d
  | .wcDataWait => hold .wcDataTest d
  | .wcDataTest => testCode C accWcData .wcFinish .wcAbort d
  | .wcFinish => stopWith cfg .success d
  | .wcAbort => withLatch d.eng.code (fun c => stopWith cfg (classify T c) d) d
  | .rrIssue addr => latchOperands (fun l => { l with addr := some addr }) .rrStartGo d
  | .rrStartGo => ctrlThen cfg W.start .rrStartWait d
  | .rrStartWait => hold .rrAddrLoad d
  | .rrAddrLoad => withLatch d.eng.addr (fun a => loadThen (sla8 a true) .rrAddrGo d) d
  | .rrAddrGo => ctrlThen cfg W.writeByte .rrAddrWait d
  | .rrAddrWait => hold .rrAddrTest d
  | .rrAddrTest => testCode C accRrAddr .rrReadGo .rrAbort d
  | .rrReadGo => ctrlThen cfg (wordReadByte W false) .rrReadWait d
  | .rrReadWait => hold .rrReadTest d
  | .rrReadTest => readTest C d
  | .rrFinish => withLatch d.eng.byte (fun b => stopWith cfg (.successByte b) d) d
  | .rrAbort => withLatch d.eng.code (fun c => stopWith cfg (classify T c) d) d

/-- A turn of `Engine(d)`: a halted engine takes no further step (R345). -/
def engineTurn (cfg : Config) (d : Device) : Device :=
  if d.halted .engine then d else (runStage cfg d).settle .engine d

/-- Issue an operation from the host (R215, R216): line 1, or the `issue` stage, as the engine's first
step (log entry 6). -/
def issueLine1 (cfg : Config) (line1 : Stage) (d : Device) : Device :=
  (runStage cfg (d.goto line1)).settle .engine d

/-- A primitive with several lines, or a master operation, which only a host issues. -/
def multiLine (op : OpKind) (line1 : Stage) (s : State) : Result :=
  onCur s fun d =>
    match contextCheck (roleOnBus s.cfg s.cur) s.issuer op d with
    | some r => d.refuse r
    | none => issueLine1 s.cfg line1 d

/-- A primitive with one line, issued by the host or by the handler (R215). The handler's step leaves
the engine's stage alone. -/
def singleLine (op : OpKind) (line1 : Stage) (line : Device → Eff) (s : State) : Result :=
  onCur s fun d =>
    match contextCheck (roleOnBus s.cfg s.cur) s.issuer op d with
    | some r => d.refuse r
    | none =>
      match s.issuer with
      | .host => issueLine1 s.cfg line1 d
      | .handler => (line d).settle .handler d

end Sys2Proof.Machine
end

