-- ==== Sys2Proof/Machine/Primitives.lean ====
section
/-! DEFINITION. The meanings of the thirteen primitives (`41_bus_abstraction.md`). Issued by the host,
a primitive checks R215 and runs its line 1 (log entry 6); `runStage` (Engine.lean) runs the lines
after it. -/

namespace Sys2Proof.Machine

/-- R200. -/
def execConfigureMaster (presc : Byte) (sclKhz : BitVec 16) (s : State) : Result :=
  multiLine .configureMaster (.configureMaster1 presc sclKhz) s

/-- R201. -/
def execConfigureSlave (addr : Addr) (s : State) : Result :=
  multiLine .configureSlave (.configureSlave1 addr) s

/-- R203. -/
def execStart (s : State) : Result := multiLine .start .start1 s

/-- R204. -/
def execStop (s : State) : Result := singleLine .stop .stop1 (stopLine s.cfg) s

/-- R205. -/
def execWriteByte (b : Byte) (s : State) : Result := multiLine .writeByte (.writeByte1 b) s

/-- R206. -/
def execReadByte (a : Bool) (s : State) : Result := multiLine .readByte (.readByte1 a) s

/-- R207. -/
def execArmForReply (s : State) : Result :=
  singleLine .armForReply .armForReply1 (armForReplyLine s.cfg) s

/-- R208. -/
def execLoadData (b : Byte) (s : State) : Result :=
  singleLine .loadData (.loadData1 b) (loadDataLine b) s

/-- R209. -/
def execReadData (s : State) : Result := singleLine .readData .readData1 readDataLine s

/-- R210. -/
def execSetAck (a : Bool) (s : State) : Result := multiLine .setAck (.setAck1 a) s

/-- R211. -/
def execClearEvent (s : State) : Result :=
  singleLine .clearEvent .clearEvent1 (clearEventLine s.cfg) s

/-- R212. -/
def execRecover (s : State) : Result := singleLine .recover .recover1 (recoverLine s.cfg) s

/-- R213. -/
def execReadStatus (s : State) : Result :=
  singleLine .readStatus .readStatus1 (readStatusLine s.cfg.chip) s

end Sys2Proof.Machine
end

