-- ==== Sys2Proof/Machine/Transactions.lean ====
section
/-! DEFINITION. The meanings of the two master operations (R246, R247): R215's checks, then the `issue`
stage. It and the stages after it are `runStage`'s (Engine.lean). -/

namespace Sys2Proof.Machine

/-- R246. -/
def execWriteCommand (addr : Addr) (b : Byte) (s : State) : Result :=
  multiLine .writeCommand (.wcIssue addr b) s

/-- R247. -/
def execReadResponse (addr : Addr) (s : State) : Result := multiLine .readResponse (.rrIssue addr) s

end Sys2Proof.Machine
end

