-- ==== Sys2Proof/Machine/Dispatch.lean ====
section
/-! DEFINITION. One arm per instruction, each one direct call of its meaning. -/

namespace Sys2Proof.Machine

def exec (i : Instr) (s : State) : Host.Outcome State Fault Refusal :=
  match i with
  | .configureMaster presc sclKhz => Sys2Proof.Machine.execConfigureMaster presc sclKhz s
  | .configureSlave addr => Sys2Proof.Machine.execConfigureSlave addr s
  | .start => Sys2Proof.Machine.execStart s
  | .stop => Sys2Proof.Machine.execStop s
  | .writeByte b => Sys2Proof.Machine.execWriteByte b s
  | .readByte a => Sys2Proof.Machine.execReadByte a s
  | .armForReply => Sys2Proof.Machine.execArmForReply s
  | .loadData b => Sys2Proof.Machine.execLoadData b s
  | .readData => Sys2Proof.Machine.execReadData s
  | .setAck a => Sys2Proof.Machine.execSetAck a s
  | .clearEvent => Sys2Proof.Machine.execClearEvent s
  | .recover => Sys2Proof.Machine.execRecover s
  | .writeCommand addr b => Sys2Proof.Machine.execWriteCommand addr b s
  | .readResponse addr => Sys2Proof.Machine.execReadResponse addr s
  | .readStatus => Sys2Proof.Machine.execReadStatus s
  | .ctrlConfig ea sto wc en ie => Sys2Proof.Machine.execCtrlConfig ea sto wc en ie s
  | .ctrlContinue ea wc ie => Sys2Proof.Machine.execCtrlContinue ea wc ie s
  | .ctrlStart ea wc ie => Sys2Proof.Machine.execCtrlStart ea wc ie s
  | .ctrlStop ea wc ie => Sys2Proof.Machine.execCtrlStop ea wc ie s
  | .evtAddrWOwn => Sys2Proof.Machine.execEvtAddrWOwn s
  | .evtAddrWGeneral => Sys2Proof.Machine.execEvtAddrWGeneral s
  | .evtDataRxOwn => Sys2Proof.Machine.execEvtDataRxOwn s
  | .evtDataRxGeneral => Sys2Proof.Machine.execEvtDataRxGeneral s
  | .evtDataReqAddress => Sys2Proof.Machine.execEvtDataReqAddress s
  | .evtDataReqContinuation => Sys2Proof.Machine.execEvtDataReqContinuation s
  | .evtOther key => Sys2Proof.Machine.execEvtOther key s

end Sys2Proof.Machine
end

