-- ==== Sys2Proof/Machine/Turns.lean ====
section
/-! DEFINITION. One turn of one agent (R6): fetching and running an instruction, the host's other
actions (R370, R290), the engine's stages, the transceiver, the joint steps, direct register accesses
(R61) and reset (R380). A turn of an agent with no enabled step leaves the system as it is. -/

namespace Sys2Proof.Machine

/-- Give device `d` the move. -/
def State.focus (s : State) (d : Nat) (who : Issuer) : State := { s with cur := d, issuer := who }

/-- Run an operation word that was decoded, or refuse it on the moving device (R107). -/
def runDecoded (fetched : Except Reject Instr) (s : State) : Result :=
  match fetched with
  | .ok i => exec i s
  | .error _ => onCur s fun d => d.refuse .illegalOperationWord

/-- May the issuer move on this device? A halted agent may not (R345); the handler issues only while
its interrupt is taken (R350; log entry 13). -/
def mayIssue (who : Issuer) (d : Device) : Bool :=
  match who with
  | .host => !d.halted .host
  | .handler => d.handlerEnabled

/-- The offset of a direct access. -/
def RegAccess.offset : RegAccess → BitVec 3
  | .read off => off
  | .write off _ => off

/-- Run a turn of the moving device if the condition holds on it; otherwise the turn passes. -/
def whenCur (cond : Device → Bool) (run : State → Result) (s : State) : Result :=
  match s.devs[s.cur]? with
  | none => .fault .noSuchDevice
  | some d => if cond d then run s else .next s

/-- An operation word is issued: it is decoded first (R347), then run. -/
def issueTurn (w : OpWord) (s : State) : Result :=
  whenCur (mayIssue s.issuer) (runDecoded (decodeOp w)) s

/-- One invocation of the handler: its key is the masked status code it reads (R282, R95). -/
def handlerTurn (s : State) : Result :=
  match s.devs[s.cur]? with
  | none => .fault .noSuchDevice
  | some d =>
    let C := s.cfg.chip
    if d.handlerEnabled then exec (decodeEvt C.status (d.statusCode C)) s else .next s

/-- A direct read of the register space (R61, R65, R175). -/
def readRegister (C : Chip) (r : Option Reg) (d : Device) : Device :=
  match r with
  | some .br => d.returning (.byte d.br)
  | some .stat => d.returning (.byte (d.stat C))
  | some .oadr => d.returning (.byte d.oadr)
  | some .data => (readData d).2.returning (.byte (readData d).1)
  | some .ctrl => d.returning (.byte (d.ctrl.toByte C.ctrl))
  | none => d.refuse .badRegisterOffset

/-- A direct write of the register space other than `CTRL` (R61, R66), which `writeCtrl` writes. -/
def writeRegister (L : StatLayout) (r : Option Reg) (v : Byte) (d : Device) : Device :=
  match r with
  | some .br => writeBr v d
  | some .stat => writeStat L v d
  | some .oadr => writeOadr v d
  | some .data => writeData v d
  | some .ctrl | none => d.refuse .badRegisterOffset

/-- A direct access of the host: a slave's transceiver is its handler's (R71, R141, R215.3; log entry
14), so every access to a register of it is refused. -/
def accessRegister (r : Option Reg) (access : Device → Device) (d : Device) : Device :=
  if touchesSlave .host d && r.isSome then d.refuse .hostTouchesSlaveTransceiver else access d

/-- A direct write of `CTRL` is a control word (R91), decoded and run; a slave's host is refused before
the word is looked at (R347). -/
def writeCtrl (v : Byte) (s : State) : Result :=
  match decodeCtrl s.cfg.chip.ctrl v with
  | .ok i => exec i s
  | .error _ => onCur s (accessRegister (some .ctrl) fun d => d.refuse .reservedControlWord)

/-- A direct access to a register or, where there is none, to an offset that holds none (R61). -/
def runAccess (r : Option Reg) (acc : RegAccess) (s : State) : Result :=
  match acc with
  | .read _ => onCur s (accessRegister r (readRegister s.cfg.chip r))
  | .write _ v =>
    if r = some .ctrl then writeCtrl v s
    else onCur s (accessRegister r (writeRegister s.cfg.chip.stat r v))

/-- A direct access of the host (R61, R345). -/
def directTurn (acc : RegAccess) (s : State) : Result :=
  whenCur (mayIssue .host) (runAccess (s.cfg.chip.offsets.regAt acc.offset) acc) s

/-- The host's other actions (R370) and the protocol of R290. A master device has no cell and no
response value (R60), and only a master has an outcome to read; the other role's action is refused
(log entry 20). A response value wider than a byte is refused as such whatever the role (R68; log entry
20). An outcome is there to read only after an operation returned (R370): until then the latch holds no
value, and the host's read of it faults (R41, U27; log entry 18). -/
def hostAct (a : HostAct) (d : Device) : Device :=
  match a with
  | .readOutcome =>
    if d.role ≠ .master then d.refuse .roleConflict
    else match inFlightCheck d, d.eng.outcome with
      | some r, _ => d.refuse r
      | none, some o => d.returning (.outcome o)
      | none, none => d.raise .unwrittenLatch .host
  | .cellRead => if d.role = .master then d.refuse .roleConflict else d.returning (.byte d.cell)
  | .cellWrite v =>
    if d.role = .master then d.refuse .roleConflict
    else if v = 0x00 then writeCell v d
    else d.refuse .cellWriteNotZero
  | .respWrite v => if d.role = .master then d.refuse .roleConflict else writeResp v d
  | .respWriteWide _ => d.refuse .wideResponseValue
  | .setGie on => if d.role = .master then d.refuse .roleConflict else { d with gie := on }
  | .poll =>
    if d.role = .master then d.refuse .roleConflict
    else if d.fg ≠ .poll then d
    else { d.returning (.byte d.cell) with fg := if d.cell = d.par.reqMarker then .consume else .poll }
  | .consume =>
    if d.role = .master then d.refuse .roleConflict
    else if d.fg ≠ .consume then d
    else { writeCell 0x00 d with fg := .refresh }
  | .refresh v =>
    if d.role = .master then d.refuse .roleConflict
    else if d.fg ≠ .refresh then d
    else { writeResp v d with fg := .poll }

/-- An action of `Host(d)`. -/
def hostTurn (a : HostAct) (s : State) : Result :=
  whenCur (mayIssue .host) (fun s => onCur s (hostAct a)) s

/-- A turn of `Xcvr(d)`: on the closed bus the joint steps take its place (R312). -/
def xcvrTurn (code : Status) (b : Byte) (s : State) : Result :=
  match s.cfg.busMode with
  | .openBus => onCur s (xcvrStep s.cfg.chip.oadr code b)
  | .closedBus => .next s

/-- A joint turn: only on the closed bus (R312). -/
def jointTurn (s : State) : Result :=
  match s.cfg.busMode with
  | .openBus => .next s
  | .closedBus => jointStep s

/-- The reset event (R380): R46, the latches of R41 and R145 without a value. Parameters stay, and so
does the count of free values drawn (log entry 5). -/
def resetDevice (C : Chip) (d : Device) : Device := .afterReset C d.par d.draws

/-- Run one turn. -/
def runTurn (t : Turn) (s : State) : Result :=
  match t with
  | .issue d who w => issueTurn w (s.focus d who)
  | .host d a => hostTurn a (s.focus d .host)
  | .engine d => onCur (s.focus d .host) (engineTurn s.cfg)
  | .xcvr d code b => xcvrTurn code b (s.focus d .host)
  | .handler d => handlerTurn (s.focus d .handler)
  | .joint => jointTurn s
  | .direct d acc => directTurn acc (s.focus d .host)
  | .reset d => onCur (s.focus d .host) (resetDevice s.cfg.chip)
  | .resetAll => .next { s with devs := s.devs.map (resetDevice s.cfg.chip), target := none }

/-- One step: the oldest turn; with none scheduled, no agent moves (log entry 1). -/
def runInputs (s : State) : Result :=
  match s.inputs with
  | [] => .next s
  | t :: rest => runTurn t { s with inputs := rest }

/-! ### Placing an instruction where the next step fetches it -/

/-- Agent `a` of the device free to move again (R345): no fault of its own. -/
def Device.unhalt (a : Agent) (d : Device) : Device :=
  { d with faults := d.faults.filter (·.agent != a) }

/-- The device with an event of the given key pending and its handler able to run (R280). -/
def Device.withPendingKey (T : StatusTable) (key : Byte) (d : Device) : Device :=
  { d.unhalt .handler with
    role := .slave
    gie := true
    phase := (T.nameOf key).getD .noInfo
    ctrl := { d.ctrl with int := true, ie := true, en := true } }

/-- The state whose next step fetches and runs the code word (log entry 16). -/
def State.withCodeWord (s : State) (c : CodeWord) : State :=
  match c with
  | .op w =>
    { s with
      devs := s.devs.modify s.cur (Device.unhalt .host)
      inputs := .issue s.cur .host w :: s.inputs }
  | .ctrl v =>
    { s with
      devs := s.devs.modify s.cur (Device.unhalt .host)
      inputs := .direct s.cur (.write s.cfg.chip.offsets.ctrl v) :: s.inputs }
  | .evt key =>
    { s with
      devs := s.devs.modify s.cur (Device.withPendingKey s.cfg.chip.status key)
      inputs := .handler s.cur :: s.inputs }

end Sys2Proof.Machine
end

