-- ==== Sys2Proof/Safety.lean ====
section
/-! DEFINITION. The terms claims use: running scheduled turns, clean runs (R345, R346), the invariants
of a device and of a system, closed systems (R310) and fair infinite runs (R178, R320, R351). -/

namespace Sys2Proof.Machine

/-! ### Running turns -/

/-- One step when `t` is the next turn. -/
def stepTurn (t : Turn) (s : State) : Result := step { s with inputs := t :: s.inputs }

/-- The turns one after the other, stopping at the first step without a next state. -/
def runTurns : List Turn → State → Result
  | [], s => .next s
  | t :: ts, s =>
    match stepTurn t s with
    | .next s' => runTurns ts s'
    | .fault r => .fault r
    | .refused r => .refused r

/-- A turn that goes outside the host interface: a direct register access. -/
def Turn.isDirect : Turn → Bool
  | .direct _ _ => true
  | .issue _ _ _ | .host _ _ | .engine _ | .xcvr _ _ _ | .handler _ | .joint | .reset _
  | .resetAll => false

/-- A reset event. -/
def Turn.isReset : Turn → Bool
  | .reset _ | .resetAll => true
  | .issue _ _ _ | .host _ _ | .engine _ | .xcvr _ _ _ | .handler _ | .joint | .direct _ _ => false

/-- A system with no fault and no refusal: only such runs prove anything (R345, R346). -/
def State.clean (s : State) : Bool := s.devs.all fun d => d.faults.isEmpty && !d.refused

/-! ### Shorthand for statements -/

/-- The system after a turn of an agent of device `k`: the device replaced, every other device, the
bus target, the parameters and the turns still to come as before. -/
def State.after (s : State) (k : Nat) (who : Issuer) (d : Device) : State :=
  { s with devs := s.devs.set k d, cur := k, issuer := who }

/-- The system has the spec's own values of the reference peripheral (R3): its bit layouts and register
offsets, its status codes, its control words, its bit-rate function, its reset values. -/
abbrev State.standard (s : State) : Prop := s.cfg.chip = standardChip

/-- The moving device, its host issuing, master and at rest (R215.2, R215.4). -/
abbrev State.masterIssues (s : State) (d : Device) : Prop :=
  s.devs[s.cur]? = some d ∧ s.issuer = .host ∧ d.role = .master ∧ d.stage = .idle

/-- The moving device, its handler issuing (R215.3). -/
abbrev State.handlerIssues (s : State) (d : Device) : Prop :=
  s.devs[s.cur]? = some d ∧ s.issuer = .handler ∧ d.role = .slave

/-- The issuer of a direct write may touch the device's transceiver: a slave's host may not (R71, R141,
R215.3). -/
abbrev State.mayTouch (s : State) (d : Device) : Prop := s.issuer = .host → d.role ≠ .slave

/-- A control write and the direct write of the same word agree: both leave `d'`. -/
abbrev State.directlyWrites (s : State) (i : Instr) (v : Byte) (d d' : Device) : Prop :=
  ctrlWrite s.cfg v d = .done d' ∧ exec i s = .next (s.setCur d')

/-- `ARB(ea, gce)` of `40_transceiver.md`, by the spec's codes. -/
def arbSet (ea gce : Bool) : List Byte :=
  0x38 :: ((if ea then [0x68, 0xB0] else []) ++ (if ea && gce then [0x78] else []))

/-! ### The invariant of a device -/

/-- The phases in which a byte step exists (R144). -/
def Status.hasByteStep (p : Status) : Bool :=
  p.isAddr || p.isMt || p.isMr || p.isAddressed || p == .busError

/-- How the transceiver's registers and hidden state fit together, in every state a run reaches:
off the bus while `EN = 0` (R148); no command pending while an event is (R31); `STO` reads 1 exactly
while a stop is pending (R24), and then the device holds the bus (R146); a byte step is pending only
where one exists, and the latches it reads were written (R145). -/
abbrev Device.XcvrInv (d : Device) : Prop :=
  (d.ctrl.en = false → d.phase = .noInfo ∧ d.pend = .none ∧ d.ctrl.int = false) ∧
  (d.ctrl.int = true → d.pend = .none ∧ d.phase ≠ .noInfo) ∧
  d.ctrl.sto = d.pend.isStop ∧
  (d.pend.isStop = true → d.phase.isOwner = true) ∧
  (d.pend = .byte → d.phase.hasByteStep = true) ∧
  (d.pend = .byte → d.phase.isAddr || d.phase.isMt || d.phase.isSt → d.txbyte.isSome = true) ∧
  (d.pend = .byte → d.phase.isMr || d.phase.isAddressed → d.ack.isSome = true)

/-- The stages of `write_command` after `issue` (R246). -/
def Stage.isWc : Stage → Bool
  | .wcStartGo | .wcStartWait | .wcAddrLoad | .wcAddrGo | .wcAddrWait | .wcAddrTest
  | .wcDataLoad | .wcDataGo | .wcDataWait | .wcDataTest | .wcFinish | .wcAbort => true
  | _ => false

/-- The stages of `read_response` after `issue`. -/
def Stage.isRr : Stage → Bool
  | .rrStartGo | .rrStartWait | .rrAddrLoad | .rrAddrGo | .rrAddrWait | .rrAddrTest
  | .rrReadGo | .rrReadWait | .rrReadTest | .rrFinish | .rrAbort => true
  | _ => false

/-- The lines of `configure_master` after line 1. -/
def Stage.isConfigureMaster : Stage → Bool
  | .configureMaster2 _ _ | .configureMaster3 _ | .configureMaster4 => true
  | _ => false

/-- The lines of `configure_slave` after line 1. -/
def Stage.isConfigureSlave : Stage → Bool
  | .configureSlave2 _ | .configureSlave3 => true
  | _ => false

/-- The latches a stage reads were written by its operation (R41). -/
abbrev Device.LatchInv (d : Device) : Prop :=
  (d.stage.isWc = true → d.eng.addr.isSome = true ∧ d.eng.cmd.isSome = true) ∧
  (d.stage.isRr = true → d.eng.addr.isSome = true) ∧
  (d.stage = .wcAbort ∨ d.stage = .rrAbort → d.eng.code.isSome = true) ∧
  (d.stage = .rrFinish → d.eng.byte.isSome = true)

/-- A stage fits the device's role (R36, R215). -/
abbrev Device.RoleInv (d : Device) : Prop :=
  (d.role = .unconfigured →
    d.stage = .idle ∨ d.stage.isConfigureMaster = true ∨ d.stage.isConfigureSlave = true) ∧
  (d.role = .slave → d.stage = .idle ∨ d.stage.isConfigureSlave = true) ∧
  (d.role = .master → d.stage.isConfigureSlave = false ∧ ∀ a, d.stage ≠ .configureSlave1 a)

/-- The set of marks holds no mark twice (R44), and the read of a latch that holds no value is marked by
a host only, which reads an outcome too early (R41, R370): the engine and the transceiver never do it. -/
abbrev Device.MarksInv (d : Device) : Prop :=
  d.faults.Nodup ∧
  ∀ m ∈ d.faults, m.agent ≠ .xcvr ∧ (m.reason = .unwrittenLatch → m.agent = .host)

/-- The invariant of one device. -/
def Device.Inv (d : Device) : Prop :=
  d.XcvrInv ∧ d.LatchInv ∧ d.RoleInv ∧ d.MarksInv

/-- Reset values that leave no event and no stop pending, as R46's do. -/
abbrev QuietReset (C : Chip) : Prop :=
  (Ctrl.ofByte C.ctrl C.reset.ctrl).int = false ∧ (Ctrl.ofByte C.ctrl C.reset.ctrl).sto = false

/-- The invariant of a system: every device's, `bus.target` names a slave that exists (R311), and the
configured reset values are quiet. -/
def State.Inv (s : State) : Prop :=
  (∀ d ∈ s.devs, d.Inv) ∧ (∀ k, s.target = some k → 1 ≤ k ∧ k < s.devs.length) ∧
  QuietReset s.cfg.chip

/-! ### Devices driven by the block's own primitives (no direct access) -/

/-- A slave device stays armed and never latches a NACK (R166, R289): kept by every turn that is no
direct access. -/
abbrev Device.SlaveInv (O : OadrLayout) (d : Device) : Prop :=
  (d.role = .unconfigured → d.ack = none) ∧
  (d.stage = .configureSlave3 → d.gce O = false) ∧
  (d.role = .slave →
    d.ctrl.ea = true ∧ d.ctrl.ie = true ∧ d.ctrl.en = true ∧ d.gce O = false ∧ d.ack ≠ some false)

/-- Where the engine stands against the transceiver during a transaction (R246, R247): each `_go` stage
follows a `_wait` stage, so `INT = 1` there and the phase is the one its `_test` accepted; each `_wait`
stage has `INT = 1` or its command still pending. -/
def Device.TransInv (cfg : Config) (d : Device) : Prop :=
  match d.stage with
  | .wcStartGo | .rrStartGo =>
    d.busy = false ∧ d.pend ≠ .stopThenStart ∧ (d.pend = .stop → cfg.overlap = .serialise)
  | .wcStartWait | .rrStartWait =>
    (d.ctrl.int = true ∧ (d.phase.isAddr = true ∨ d.phase = .busError)) ∨
    (d.ctrl.int = false ∧ d.ctrl.en = true ∧ (d.pend = .start ∨ d.pend = .stopThenStart))
  | .wcAddrLoad | .wcAddrGo | .rrAddrLoad | .rrAddrGo =>
    d.ctrl.int = true ∧ (d.phase.isAddr = true ∨ d.phase = .busError)
  | .wcAddrWait | .rrAddrWait =>
    d.ctrl.int = true ∨
    (d.ctrl.int = false ∧ d.ctrl.en = true ∧ d.pend = .byte ∧
      (d.phase.isAddr = true ∨ d.phase = .busError))
  | .wcDataLoad | .wcDataGo => d.ctrl.int = true ∧ d.phase = .mtSlaAck
  | .wcDataWait =>
    d.ctrl.int = true ∨
    (d.ctrl.int = false ∧ d.ctrl.en = true ∧ d.pend = .byte ∧ d.phase = .mtSlaAck)
  | .rrReadGo => d.ctrl.int = true ∧ d.phase = .mrSlaAck
  | .rrReadWait =>
    d.ctrl.int = true ∨
    (d.ctrl.int = false ∧ d.ctrl.en = true ∧ d.pend = .byte ∧ d.phase = .mrSlaAck)
  | .wcAddrTest | .wcDataTest | .wcFinish | .wcAbort
  | .rrAddrTest | .rrReadTest | .rrFinish | .rrAbort => d.ctrl.int = true
  | _ => True

/-- Where a primitive's hold stands against the transceiver: the event is there, or the command that
brings it is pending; a byte step may have left the bus instead (R205: then no completion follows). -/
abbrev Device.PrimitiveWaits (d : Device) : Prop :=
  (d.stage = .start2 → d.ctrl.int = true ∨
    (d.ctrl.en = true ∧ (d.pend = .start ∨ d.pend = .stopThenStart))) ∧
  (d.stage = .writeByte3 ∨ d.stage = .readByte2 → d.ctrl.int = true ∨
    (d.ctrl.en = true ∧ (d.pend = .byte ∨ (d.pend = .none ∧ d.phase = .noInfo))))

/-- Where a master's engine stands on the closed bus, where no bus error and no arbitration loss occurs
(R312): the codes each `_test` stage can read, and the codes an `abort` stage can hold (R322). -/
def Device.ClosedTransInv (d : Device) : Prop :=
  match d.stage with
  | .wcStartWait | .rrStartWait =>
    (d.ctrl.int = true ∧ d.phase.isAddr = true) ∨
    (d.ctrl.int = false ∧ (d.pend = .start ∨ d.pend = .stopThenStart))
  | .wcAddrLoad | .rrAddrLoad => d.ctrl.int = true ∧ d.phase.isAddr = true
  | .wcAddrGo => d.ctrl.int = true ∧ d.phase.isAddr = true ∧ d.data.getLsbD 0 = false
  | .rrAddrGo => d.ctrl.int = true ∧ d.phase.isAddr = true ∧ d.data.getLsbD 0 = true
  | .wcAddrWait =>
    (d.ctrl.int = true ∧ (d.phase = .mtSlaAck ∨ d.phase = .mtSlaNack)) ∨
    (d.ctrl.int = false ∧ d.pend = .byte ∧ d.phase.isAddr = true ∧
      ∃ t, d.txbyte = some t ∧ t.getLsbD 0 = false)
  | .rrAddrWait =>
    (d.ctrl.int = true ∧ (d.phase = .mrSlaAck ∨ d.phase = .mrSlaNack)) ∨
    (d.ctrl.int = false ∧ d.pend = .byte ∧ d.phase.isAddr = true ∧
      ∃ t, d.txbyte = some t ∧ t.getLsbD 0 = true)
  | .wcAddrTest => d.ctrl.int = true ∧ (d.phase = .mtSlaAck ∨ d.phase = .mtSlaNack)
  | .rrAddrTest => d.ctrl.int = true ∧ (d.phase = .mrSlaAck ∨ d.phase = .mrSlaNack)
  | .wcDataLoad | .wcDataGo => d.ctrl.int = true ∧ d.phase = .mtSlaAck
  | .rrReadGo => d.ctrl.int = true ∧ d.phase = .mrSlaAck
  | .wcDataWait =>
    (d.ctrl.int = true ∧ (d.phase = .mtDataAck ∨ d.phase = .mtDataNack)) ∨
    (d.ctrl.int = false ∧ d.pend = .byte ∧ d.phase = .mtSlaAck)
  | .rrReadWait =>
    (d.ctrl.int = true ∧ (d.phase = .mrDataAck ∨ d.phase = .mrDataNack)) ∨
    (d.ctrl.int = false ∧ d.pend = .byte ∧ d.phase = .mrSlaAck)
  | .wcDataTest => d.ctrl.int = true ∧ (d.phase = .mtDataAck ∨ d.phase = .mtDataNack)
  | .rrReadTest => d.ctrl.int = true ∧ (d.phase = .mrDataAck ∨ d.phase = .mrDataNack)
  | .wcAbort => d.eng.code = some 0x20 ∨ d.eng.code = some 0x30
  | .rrAbort => d.eng.code = some 0x48
  | _ => True

/-- The outcomes of R322 (`NoAck(0x30)` included, which R322 admits for a slave whose `ack` is 0). -/
def EngOutcome.onClosedBus : EngOutcome → Prop
  | .success | .successByte _ => True
  | .noAck code => code = 0x20 ∨ code = 0x48 ∨ code = 0x30
  | .arbLost _ | .unexpected _ => False

/-! ### The closed system of R310 -/

/-- The parameters R293 and R310 ask for: markers that are not 0x00, slave addresses distinct and not 0,
and devices with numbers of their own. -/
def ParamsOk (pars : List DevParams) : Prop :=
  (∀ p ∈ pars, p.reqMarker ≠ 0x00) ∧ (pars.map (·.id)).Nodup ∧
  (∀ p ∈ pars.tail, p.slaveAddr ≠ 0) ∧ (pars.tail.map (·.slaveAddr)).Nodup

/-- A device `S_k` of a closed bus: it is or will be a slave, configured by `configure_slave
SLAVE_ADDR[k]` (R201, R310), so that its own address is `SLAVE_ADDR[k]` and `GCE = 0`. -/
def Device.IsSlaveOfBus (O : OadrLayout) (d : Device) : Prop :=
  d.role ≠ .master ∧ d.stage.isConfigureMaster = false ∧
  (∀ p k, d.stage ≠ .configureMaster1 p k) ∧
  (∀ a, d.stage = .configureSlave1 a ∨ d.stage = .configureSlave2 a → a = d.par.slaveAddr) ∧
  (d.stage = .configureSlave3 ∨ d.role = .slave → d.oadr = oadr8 O d.par.slaveAddr)

/-- The device `M` of a closed bus: it is or will be the master. -/
def Device.IsMasterOfBus (d : Device) : Prop :=
  d.role ≠ .slave ∧ d.stage.isConfigureSlave = false ∧ ∀ a, d.stage ≠ .configureSlave1 a

/-- The closed bus of R310: exactly one master device, and slaves at their own distinct addresses. -/
def State.ClosedSystem (s : State) : Prop :=
  s.cfg.busMode = .closedBus ∧ ParamsOk (s.devs.map (·.par)) ∧
  ∃ m ds, s.devs = m :: ds ∧ m.IsMasterOfBus ∧ ∀ d ∈ ds, d.IsSlaveOfBus s.cfg.chip.oadr

/-- A turn whose operation word, if it is a `configure_slave`, names the device's own `SLAVE_ADDR`. -/
def Turn.configuresOwnAddress (s : State) (t : Turn) : Prop :=
  ∀ k who w a d, t = .issue k who w → decodeOp w = .ok (.configureSlave a) → s.devs[k]? = some d →
    a = d.par.slaveAddr

/-! ### What a read returns on the closed bus (R294, R295, R318) -/

/-- A turn in which a host writes `RESP`. -/
def Turn.writesResp : Turn → Bool
  | .host _ (.respWrite _) | .host _ (.refresh _) => true
  | .host _ _ | .issue _ _ _ | .engine _ | .xcvr _ _ _ | .handler _ | .joint | .direct _ _ | .reset _
  | .resetAll => false

/-- A turn in which the handler issues an operation of its own, outside its step of R282. -/
def Turn.isHandlerIssue : Turn → Bool
  | .issue _ .handler _ => true
  | .issue _ .host _ | .host _ _ | .engine _ | .xcvr _ _ _ | .handler _ | .joint | .direct _ _
  | .reset _ | .resetAll => false

/-- A slave that was addressed for reading: its handler is still to run, or has armed the reply with
`RESP`. -/
abbrev Device.RepliesWithResp (d : Device) : Prop :=
  d.phase = .stSlaAck ∧
  (d.ctrl.int = true ∨ (d.ctrl.int = false ∧ d.pend = .byte ∧ d.txbyte = some d.resp))

/-- The slave whose address the master `m` latched is addressed and replies with its `RESP`. -/
def State.Addresses (s : State) (m : Device) : Prop :=
  ∃ j d, s.target = some (j + 1) ∧ s.devs[j + 1]? = some d ∧ m.eng.addr = some (d.ownAddr s.cfg.chip.oadr) ∧
    d.RepliesWithResp

/-- `b` is the `RESP` of a slave with the address the master `m` latched. -/
def State.IsRespFor (s : State) (m : Device) (b : Byte) : Prop :=
  ∃ j d, s.devs[j + 1]? = some d ∧ m.eng.addr = some (d.ownAddr s.cfg.chip.oadr) ∧ b = d.resp

/-- Where a `read_response` of the master `m` stands against the slave it addresses (R318). -/
def State.ReadInv (s : State) (m : Device) : Prop :=
  match m.stage with
  | .rrAddrGo => ∃ a, m.eng.addr = some a ∧ m.data = sla8 a true
  | .rrAddrWait =>
    (m.ctrl.int = true → m.phase = .mrSlaAck → s.Addresses m) ∧
    (m.ctrl.int = false → ∃ a, m.eng.addr = some a ∧ m.txbyte = some (sla8 a true))
  | .rrAddrTest => m.phase = .mrSlaAck → s.Addresses m
  | .rrReadGo => s.Addresses m
  | .rrReadWait =>
    (m.ctrl.int = true → s.IsRespFor m m.data) ∧ (m.ctrl.int = false → s.Addresses m)
  | .rrReadTest => s.IsRespFor m m.data
  | .rrFinish => ∃ b, m.eng.byte = some b ∧ s.IsRespFor m b
  | _ => True

/-! ### Infinite runs and fairness (log entry 22) -/

/-- An infinite run: `τ n` is the turn the n-th step takes. -/
def IsRun (τ : Nat → Turn) (σ : Nat → State) : Prop :=
  ∀ n, stepTurn (τ n) (σ n) = .next (σ (n + 1))

/-- A completion or a stop execution of device `k` is enabled on the open bus (R150, R156). Slave events
are never forced (R178). -/
def State.forced (s : State) (k : Nat) : Prop :=
  s.cfg.busMode = .openBus ∧
  ∃ d, s.devs[k]? = some d ∧ d.halted .xcvr = false ∧
    (completionEnabled d = true ∨ stopEnabled d = true)

/-- The turn takes that step: the draw is one the relation admits (R160). -/
def State.takesForced (s : State) (k : Nat) (t : Turn) : Prop :=
  ∃ code b d, t = .xcvr k code b ∧ s.devs[k]? = some d ∧
    (completionEnabled d = true → ∃ cs, completionCodes s.cfg.chip.oadr d = some cs ∧ code ∈ cs)

/-- A joint step is enabled on the closed bus (R313, R320). -/
def State.jointForced (s : State) : Prop :=
  s.cfg.busMode = .closedBus ∧
  ∃ d ds, s.devs = d :: ds ∧ d.pend ≠ .none ∧
    jointEnabled { master := d, slaves := ds, target := s.target } = true

/-- `BUS_FAIR = true` (R178, R320): every continuously enabled completion, stop execution and joint step
is eventually taken. With `BUS_FAIR = false` nothing is promised. -/
def BusFair (τ : Nat → Turn) (σ : Nat → State) : Prop :=
  (σ 0).cfg.busFair = true →
    (∀ k n, (∀ m, n ≤ m → (σ m).forced k) → ∃ m, n ≤ m ∧ (σ m).takesForced k (τ m)) ∧
    (∀ n, (∀ m, n ≤ m → (σ m).jointForced) → ∃ m, n ≤ m ∧ τ m = .joint)

/-- Interrupt delivery is fair (R351). -/
def IrqFair (τ : Nat → Turn) (σ : Nat → State) : Prop :=
  ∀ k n, (∀ m, n ≤ m → ∃ d, (σ m).devs[k]? = some d ∧ d.handlerEnabled = true) →
    ∃ m, n ≤ m ∧ τ m = .handler k

/-- Device `k`'s engine gets a turn again and again. -/
def EngineScheduled (τ : Nat → Turn) (k : Nat) : Prop := ∀ n, ∃ m, n ≤ m ∧ τ m = .engine k

end Sys2Proof.Machine
end

