-- ==== Sys2Proof/Certificates/Slice0/Obligations.lean ====
section
/-! DEFINITION. The statements for the provers. A turn of device `k` reaches a run through `stepTurn`
(one step whose next turn it is), an instruction through `exec`; every `exec` result is the whole next
state, so what it does not name is unchanged (the frame). Where a statement names a code's number, a
control word, a bit of a register, a register's offset, the bit-rate formula or a reset value, its premise
`standard` says that these are the spec's own (R3 and R96 make them configuration). -/

open Sys2Proof Sys2Proof.Machine

/-! ### Reset, encodings and read-back -/

/-- R46: the values a device has at reset, for any parameters with the spec's own reset values (R3);
`State.reset` is one such system (its parameters are the choices of log entry 4). R380: the reset event
of a device puts it back to R46 with no value in the latches, resetting all also clears `bus.target`,
and after it no agent of the device has an enabled step. That the event empties `faults` and `refused`
is log entry 3 (R46 and R380 against R44), and that the counter of free values drawn is kept is the
model's, log entry 5. -/
def Obligations.ResetLeavesTheSpecifiedValues : Prop :=
  ((∃ cfg pars, cfg.chip = standardChip ∧ State.reset = State.resetWith cfg pars) ∧
   ∀ (cfg : Config) (pars : List DevParams) (k : Nat) (p : DevParams), cfg.chip = standardChip →
     pars[k]? = some p →
     ∃ d, (State.resetWith cfg pars).devs[k]? = some d ∧
       d.ctrl.toByte standardCtrl = 0x00 ∧ d.stat standardChip = 0xF8 ∧ d.data = 0xFF ∧ d.oadr = 0xFE ∧
       d.br = 0x00 ∧
       d.phase.code = 0xF8 ∧ d.pend = .none ∧ d.role = .unconfigured ∧ d.stage = .idle ∧
       d.eng = { addr := none, cmd := none, code := none, byte := none, outcome := none } ∧
       d.cell = 0x00 ∧ d.resp = p.respInit ∧ d.gie = false ∧ d.faults = [] ∧ d.refused = false) ∧
  (∀ (s : State) (k : Nat) (d : Device), s.standard → s.devs[k]? = some d →
     ∃ d', stepTurn (.reset k) s = .next (s.after k .host d') ∧
       stepTurn .resetAll s =
         .next { s with
           devs := s.devs.map fun e => Device.afterReset standardChip e.par e.draws
           target := none } ∧
       d' = Device.afterReset standardChip d.par d.draws ∧
       (d'.ctrl.toByte standardCtrl = 0x00 ∧ d'.stat standardChip = 0xF8 ∧ d'.data = 0xFF ∧
         d'.oadr = 0xFE ∧
         d'.br = 0x00 ∧
         d'.phase = .noInfo ∧ d'.pend = .none ∧ d'.role = .unconfigured ∧ d'.stage = .idle ∧
         d'.eng = .unwritten ∧ d'.cell = 0x00 ∧ d'.resp = d.par.respInit ∧ d'.gie = false ∧
         d'.faults = [] ∧ d'.refused = false ∧ d'.txbyte = none ∧ d'.ack = none) ∧
       runStage s.cfg d' = .done d' ∧ completionEnabled d' = false ∧ stopEnabled d' = false ∧
       slaveEventEnabled d' = false ∧ d'.handlerEnabled = false)

/-- R91, R105, R106, R114: no bit of an encoding is dropped, whatever the configured layout of `CTRL` and
the configured codes (R3, R96). -/
def Obligations.DecodeOfEncodeIsTheInstruction : Prop :=
  ∀ (C : Chip) (i : Instr), C.WellFormed → i.wellFormed C.status = true →
    decode C (encode C i) = .ok i

/-- R108: a word that decodes is the encoding of what it decodes to, and that is well formed. R114: the
four classes cover every 8-bit key: a byte that is none of the six named codes is `OTHER`. -/
def Obligations.EncodeOfDecodeIsTheWord : Prop :=
  (∀ (C : Chip) (c : CodeWord) (i : Instr), C.ctrl.WellFormed → decode C c = .ok i →
     i.wellFormed C.status = true ∧ encode C i = c) ∧
  ∀ key : Byte, (key ∉ [0x60, 0x70, 0x80, 0x90, 0xA8, 0xB8] →
      decode standardChip (.evt key) = .ok (.evtOther key)) ∧
    ∀ C, ∃ i, decode C (.evt key) = .ok i

/-- R106–R108: opcode 0 or a set reserved bit makes an operation word illegal; every other word
decodes to the operation of its opcode. -/
def Obligations.OperationWordsDecodeByOpcodeAndMask : Prop :=
  ∀ w : OpWord,
    let op := (w.extractLsb' 28 4).toNat
    let mask := ([0x00000000, 0xF0FFFFFF, 0xF07F0000, 0xF0000000, 0xF0000000, 0xF000FF00, 0xF1000000,
      0xF0000000, 0xF000FF00, 0xF0000000, 0xF1000000, 0xF0000000, 0xF0000000, 0xF07FFF00, 0xF07F0000,
      0xF0000000] : List OpWord)[op]?
    let name := ([none, some .configureMaster, some .configureSlave, some .start, some .stop,
      some .writeByte, some .readByte, some .armForReply, some .loadData, some .readData,
      some .setAck, some .clearEvent, some .recover, some .writeCommand, some .readResponse,
      some .readStatus] : List (Option OpKind))[op]?
    (op = 0 → decodeOp w = .error .illegalOperationWord) ∧
    (op ≠ 0 → ∃ m, mask = some m ∧
      (w &&& ~~~m ≠ 0 → decodeOp w = .error .illegalOperationWord) ∧
      (w &&& ~~~m = 0 → ∃ i, decodeOp w = .ok i ∧ name = some i.opKind))

/-- R92: the control word classes, for a word that is not reserved whatever `CTRL.STO` holds. R93:
the reserved control words, and that writing one directly is refused with nothing else changed (a
slave's host may write none: `ControlReadsAndTheRegisterSpace`). -/
def Obligations.ControlWordsSelectTheirClassOrAreRefused : Prop :=
  (∀ v : Byte, v.getLsbD 1 = false →
     let e := v.getLsbD 6; let p := v.getLsbD 4; let w := v.getLsbD 3; let n := v.getLsbD 2
     let q := v.getLsbD 0
     (v.getLsbD 7 = false → v.getLsbD 5 = false →
       decodeCtrl standardCtrl v = .ok (.ctrlConfig e p w n q)) ∧
     (v.getLsbD 7 = true → n = true →
       (v.getLsbD 5 = false → p = false → decodeCtrl standardCtrl v = .ok (.ctrlContinue e w q)) ∧
       (v.getLsbD 5 = true → p = false → decodeCtrl standardCtrl v = .ok (.ctrlStart e w q)) ∧
       (v.getLsbD 5 = false → p = true → decodeCtrl standardCtrl v = .ok (.ctrlStop e w q)))) ∧
  (∀ (s : State) (k : Nat) (d : Device) (v : Byte), s.standard → s.devs[k]? = some d →
     (v.getLsbD 1 = true ∨ (v.getLsbD 7 = true ∧ v.getLsbD 5 = true ∧ v.getLsbD 4 = true) ∨
       (v.getLsbD 7 = true ∧ v.getLsbD 2 = false) ∨ (v.getLsbD 7 = false ∧ v.getLsbD 5 = true) ∨
       (v.getLsbD 7 = false ∧ v.getLsbD 4 ≠ d.ctrl.sto)) →
     ctrlWrite s.cfg v d = .refuse .reservedControlWord ∧
     (d.halted .host = false → d.role ≠ .slave → stepTurn (.direct k (.write 4 v)) s =
       .next (s.after k .host
         { d with refused := true, lastRefusal := some .reservedControlWord })))

/-- R91, R104–R106, R114: words written out bit by bit decode to what the spec's tables say. Which of
the two 8-bit formats a bare byte is read in is the model's choice, log entry 15. -/
def Obligations.SpecWordsDecode : Prop :=
  decodeTableWord 32 0b00010000000001000000000001100100 = some (.configureMaster 4 100) ∧
  decodeTableWord 32 0b00100000001010100000000000000000 = some (.configureSlave 0x2A) ∧
  decodeTableWord 32 0b00110000000000000000000000000000 = some .start ∧
  decodeTableWord 32 0b01010000000000000101010000000000 = some (.writeByte 0x54) ∧
  decodeTableWord 32 0b01100001000000000000000000000000 = some (.readByte true) ∧
  decodeTableWord 32 0b11010000001010100101001000000000 = some (.writeCommand 0x2A 0x52) ∧
  decodeTableWord 32 0b11100000001010100000000000000000 = some (.readResponse 0x2A) ∧
  decodeTableWord 8 0b01000101 = some (.ctrlConfig true false false true true) ∧
  decodeTableWord 8 0b10100100 = some (.ctrlStart false false false) ∧
  decodeTableWord 8 0b10101000 = some .evtDataReqAddress ∧
  decodeTableWord 8 0b11000000 = some (.evtOther 0xC0)

/-- R100, R101: the address byte and the own-address byte; an operand of 128 or more is illegal. -/
def Obligations.AddressBytesCarryAddressAndDirection : Prop :=
  (∀ (a : Addr) (dir : Bool),
    (sla8 a dir).getLsbD 0 = dir ∧ (sla8 a dir).extractLsb' 1 7 = a ∧
    (oadr8 standardOadr a).getLsbD 0 = false ∧ (oadr8 standardOadr a).extractLsb' 1 7 = a) ∧
  ∀ w : OpWord, w.getLsbD 23 = true →
    w.extractLsb' 28 4 = 0x2 ∨ w.extractLsb' 28 4 = 0xD ∨ w.extractLsb' 28 4 = 0xE →
    decodeOp w = .error .illegalOperationWord

/-- R32, R95: the visible status and the status code, and that a read of `STAT` returns it without
any other effect (a slave's host may read none: `ControlReadsAndTheRegisterSpace`). -/
def Obligations.StatusReadsThePhaseWhileAnEventIsPending : Prop :=
  ∀ (s : State) (k : Nat) (d : Device), s.standard → s.devs[k]? = some d →
    d.halted .host = false →
    let C := standardChip
    (d.stat C).extractLsb' 3 5 = (if d.ctrl.int then d.phase.code.extractLsb' 3 5 else 0b11111) ∧
    (d.stat C).getLsbD 2 = false ∧ (d.stat C).extractLsb' 0 2 = d.ps ∧
    d.statusCode C = (if d.ctrl.int then d.phase.code else 0xF8) ∧ d.statusCode C &&& 0x07 = 0 ∧
    (d.role ≠ .slave →
      stepTurn (.direct k (.read 1)) s = .next (s.after k .host { d with ret := .byte (d.stat C) }))

/-- R175, R27: what a read of `CTRL` returns. R61: the register space; an access at offsets 5 to 7
is refused. R71, R215.3: a slave's transceiver is its handler's; its host's direct access of a register
is refused (log entry 14). -/
def Obligations.ControlReadsAndTheRegisterSpace : Prop :=
  ∀ (s : State) (k : Nat) (d : Device), s.standard → s.devs[k]? = some d →
    d.halted .host = false →
    let answers (acc : RegAccess) (d' : Device) : Prop :=
      stepTurn (.direct k acc) s = .next (s.after k .host d')
    let refusedWith (r : RefuseReason) : Device := { d with refused := true, lastRefusal := some r }
    let c := d.ctrl.toByte standardCtrl
    (c.getLsbD 7 = d.ctrl.int ∧ c.getLsbD 6 = d.ctrl.ea ∧ c.getLsbD 5 = d.ctrl.sta ∧
      c.getLsbD 4 = d.ctrl.sto ∧ c.getLsbD 3 = d.ctrl.wc ∧ c.getLsbD 2 = d.ctrl.en ∧
      c.getLsbD 1 = false ∧ c.getLsbD 0 = d.ctrl.ie) ∧
    (d.role ≠ .slave →
      answers (.read 4) { d with ret := .byte c } ∧
      answers (.read 0) { d with ret := .byte d.br } ∧
      answers (.read 2) { d with ret := .byte d.oadr } ∧
      (d.ctrl.int = true → answers (.read 3) { d with ret := .byte d.data }) ∧
      (d.ctrl.int = false → answers (.read 3)
        { d with ret := .byte (Config.busyData d.par.id d.draws), draws := d.draws + 1 }) ∧
      ∀ v : Byte,
        answers (.write 0 v) { d with br := v } ∧
        answers (.write 1 v) { d with ps := v.extractLsb' 0 2 } ∧
        answers (.write 2 v) { d with oadr := v } ∧
        (d.ctrl.int = true →
          answers (.write 3 v) { d with data := v, ctrl := { d.ctrl with wc := false } }) ∧
        (d.ctrl.int = false → answers (.write 3 v) { d with ctrl := { d.ctrl with wc := true } })) ∧
    (∀ (off : BitVec 3) (v : Byte), 5 ≤ off.toNat →
      answers (.read off) (refusedWith .badRegisterOffset) ∧
      answers (.write off v) (refusedWith .badRegisterOffset)) ∧
    (d.role = .slave → ∀ (off : BitVec 3) (v : Byte), off.toNat < 5 →
      answers (.read off) (refusedWith .hostTouchesSlaveTransceiver) ∧
      answers (.write off v) (refusedWith .hostTouchesSlaveTransceiver))

/-- R97 and the sets of `40_transceiver.md`, by the spec's numbers. -/
def Obligations.PhaseSetsAreTheSpecsCodes : Prop :=
  let codes (f : Status → Bool) : List Byte := (Status.all.filter f).map Status.code
  Status.all.map Status.code = (List.range 32).map (fun n => BitVec.ofNat 8 (8 * n)) ∧
  (∀ p : Status, standardStatus.nameOf p.code = some p) ∧
  codes Status.isOwner = [0x08, 0x10, 0x18, 0x20, 0x28, 0x30, 0x40, 0x48, 0x50, 0x58] ∧
  codes Status.isAddr = [0x08, 0x10] ∧ codes Status.isMt = [0x18, 0x20, 0x28, 0x30] ∧
  codes Status.isMr = [0x40, 0x50] ∧ codes Status.isMrLast = [0x48, 0x58] ∧
  codes Status.isSrOwn = [0x60, 0x68, 0x80] ∧ codes Status.isSrGc = [0x70, 0x78, 0x90] ∧
  codes Status.isSt = [0xA8, 0xB0, 0xB8] ∧ codes Status.isSrEnd = [0x88, 0x98, 0xA0, 0xC0, 0xC8]

/-! ### The step -/

/-- A step runs the instruction that was fetched: an operation word issued by the host or by the
handler, a control word written directly at the offset of `CTRL`, and the masked status code the handler
reads (R282); whatever the configured layouts, offsets and codes are (R3). The
model's placing of a table word (log entry 16): the very next step runs its instruction. -/
def Obligations.StepRunsTheDecodedInstruction : Prop :=
  (∀ (s : State) (k : Nat) (d : Device), s.devs[k]? = some d →
     let C := s.cfg.chip
     (∀ w i, d.halted .host = false → decodeOp w = .ok i →
       stepTurn (.issue k .host w) s = exec i { s with cur := k, issuer := .host }) ∧
     (∀ w i, d.handlerEnabled = true → decodeOp w = .ok i →
       stepTurn (.issue k .handler w) s = exec i { s with cur := k, issuer := .handler }) ∧
     (∀ v i, d.halted .host = false → C.offsets.WellFormed → decodeCtrl C.ctrl v = .ok i →
       stepTurn (.direct k (.write C.offsets.ctrl v)) s = exec i { s with cur := k, issuer := .host }) ∧
     (d.handlerEnabled = true → stepTurn (.handler k) s =
       exec (decodeEvt C.status (d.statusCode C)) { s with cur := k, issuer := .handler })) ∧
  (∀ (s : State) (d : Device) (nbits w : Nat) (i : Instr), s.standard → s.devs[s.cur]? = some d →
     decodeTableWord nbits w = some i →
     ∃ s0, step (s.withFetchWord nbits w) = exec i s0 ∧ s0.inputs = s.inputs ∧ s0.cur = s.cur ∧
       s0.cfg = s.cfg ∧ s0.target = s.target ∧ s0.devs.length = s.devs.length)

/-- R107, R347 item 1: an illegal operation word is refused before any context check, whatever the
role and the stage. R215: the context checks, in their order, for every operation, role and issuer.
That a handler's configure on an unconfigured device gets `NotConfigured` too is the model's choice, log
entry 13: R215 item 1 admits the configures there and names no issuer. A device of a closed bus takes the
role its place gives it only (R310; log entry 30). -/
def Obligations.IllegalWordsAndContextChecksAreRefusedInOrder : Prop :=
  (∀ (s : State) (k : Nat) (d : Device) (w : OpWord), s.devs[k]? = some d → d.halted .host = false →
     decodeOp w = .error .illegalOperationWord →
     stepTurn (.issue k .host w) s = .next (s.after k .host
       { d with refused := true, lastRefusal := some .illegalOperationWord })) ∧
  (∀ (s : State) (d : Device) (i : Instr) (op : OpKind), s.devs[s.cur]? = some d →
     i.opKind = some op →
     let refusedWith (r : RefuseReason) : Prop :=
       exec i s = .next (s.setCur { d with refused := true, lastRefusal := some r })
     let configures := op = .configureMaster ∨ op = .configureSlave
     let otherRole := s.cfg.busMode = .closedBus ∧
       op = (if s.cur = 0 then .configureSlave else .configureMaster)
     (d.role = .unconfigured → ¬ configures ∨ s.issuer = .handler → refusedWith .notConfigured) ∧
     (d.role = .master → s.issuer = .host →
       op = .configureSlave ∨ op = .armForReply ∨ op = .clearEvent ∨ op = .recover →
       refusedWith .roleConflict) ∧
     (d.role = .slave → s.issuer = .host → ¬ configures →
       refusedWith .hostTouchesSlaveTransceiver) ∧
     (d.role = .slave → s.issuer = .handler →
       op ∉ [.readStatus, .readData, .loadData, .armForReply, .clearEvent, .recover] →
       refusedWith .hostTouchesSlaveTransceiver) ∧
     (d.role ≠ .master → s.issuer = .host → otherRole → refusedWith .roleConflict) ∧
     (s.issuer = .host → d.stage ≠ .idle → (d.role ≠ .master → ¬ otherRole) →
       (d.role = .unconfigured ∧ configures) ∨ (d.role = .slave ∧ op = .configureSlave) ∨
       (d.role = .master ∧ op ∉ [.configureSlave, .armForReply, .clearEvent, .recover]) →
       refusedWith .operationInFlight))

/-- R346: an instruction that is refused changes nothing but the mark of its device. R345: a control
write that faults leaves the device as it was and adds the mark (reason, agent, stage); a halted
agent takes no further step. -/
def Obligations.RefusalsAndFaultsChangeOnlyTheMarks : Prop :=
  (∀ (s t : State) (d d' : Device) (i : Instr), s.devs[s.cur]? = some d → exec i s = .next t →
     t.devs[s.cur]? = some d' → d.refused = false → d'.refused = true →
     ∃ r, t = s.setCur { d with refused := true, lastRefusal := some r }) ∧
  ((∀ (cfg : Config) (v : Byte) (d d' : Device) (r : FaultReason),
     ctrlWrite cfg v d = .fault r d' → d' = d) ∧
   (∀ (d : Device) (r : FaultReason) (a : Agent),
     let m : FaultMark := { reason := r, agent := a, stage := d.stage }
     (∀ x, x ∈ (d.raise r a).faults ↔ x = m ∨ x ∈ d.faults) ∧
     { d.raise r a with faults := d.faults } = d ∧ (d.raise r a).halted a = true) ∧
   ∀ (s : State) (k : Nat) (d : Device), s.devs[k]? = some d →
     (d.halted .engine = true → stepTurn (.engine k) s = .next (s.after k .host d)) ∧
     (d.halted .handler = true → stepTurn (.handler k) s = .next (s.after k .handler d) ∧
       ∀ w, stepTurn (.issue k .handler w) s = .next (s.after k .handler d)) ∧
     (d.halted .host = true → (∀ w, stepTurn (.issue k .host w) s = .next (s.after k .host d)) ∧
       (∀ a, stepTurn (.host k a) s = .next (s.after k .host d)) ∧
       ∀ acc, stepTurn (.direct k acc) s = .next (s.after k .host d)) ∧
     (d.halted .xcvr = true → s.cfg.busMode = .openBus → ∀ code b,
       stepTurn (.xcvr k code b) s = .next (s.after k .host d)))

/-- R36, R44, R7: no turn but a reset takes a device out of its role, removes a fault mark, clears
the mark `refused`, or changes a parameter. `RoleInv` (a stage fits the role, R215) is part of
`State.Inv`, which every step keeps. -/
def Obligations.RolesMarksAndParametersStay : Prop :=
  ∀ (s s' : State) (t : Turn) (k : Nat) (d : Device), t.isReset = false →
    stepTurn t s = .next s' → s.devs[k]? = some d → d.RoleInv →
    s'.cfg = s.cfg ∧ s'.devs.length = s.devs.length ∧
    ∃ d', s'.devs[k]? = some d' ∧ d'.par = d.par ∧
      (d.role ≠ .unconfigured → d'.role = d.role) ∧
      (∀ m, m ∈ d.faults → m ∈ d'.faults) ∧ (d.refused = true → d'.refused = true)

/-! ### Control writes, in any layout of `CTRL` that gives every field a bit of its own (R3) -/

/-- R142, R148: a `CONFIG` word. -/
def Obligations.ConfigWriteUpdatesTheEnables : Prop :=
  ∀ (s : State) (d : Device) (ea sto wc en ie : Bool), s.cfg.chip.ctrl.WellFormed →
    s.devs[s.cur]? = some d → s.mayTouch d →
    let i : Instr := .ctrlConfig ea sto wc en ie
    let v := ctrlWord s.cfg.chip.ctrl false ea false sto wc en ie
    (sto = d.ctrl.sto →
      (en = false → s.directlyWrites i v d
        { d with
          ctrl := { d.ctrl with int := false, ea := ea, sta := false, sto := false, en := false, ie := ie }
          phase := .noInfo, pend := .none }) ∧
      (en = true → d.ctrl.en = false → s.directlyWrites i v d
        { d with
          ctrl := { d.ctrl with ea := ea, sta := false, en := true, ie := ie }
          phase := .noInfo, pend := .none }) ∧
      (en = true → d.ctrl.en = true → s.directlyWrites i v d
        { d with ctrl := { d.ctrl with ea := ea, sta := false, ie := ie } })) ∧
    (sto ≠ d.ctrl.sto → exec i s = .next (s.setCur
      { d with refused := true, lastRefusal := some .reservedControlWord }))

/-- R143: a `START` word. The agent of a direct write's fault is its issuer (log entry 14). -/
def Obligations.StartWriteRequestsAStart : Prop :=
  ∀ (s : State) (d : Device) (ea wc ie : Bool), s.cfg.chip.ctrl.WellFormed →
    s.devs[s.cur]? = some d → d.busy = false → s.mayTouch d →
    let i : Instr := .ctrlStart ea wc ie
    let v := ctrlWord s.cfg.chip.ctrl true ea true false wc true ie
    (d.pend ≠ .stop → d.pend ≠ .stopThenStart → s.directlyWrites i v d
      { d with
        ctrl := { d.ctrl with int := false, ea := ea, sta := true, sto := false, en := true, ie := ie }
        pend := .start }) ∧
    (d.pend = .stop ∨ d.pend = .stopThenStart →
      (s.cfg.overlap = .serialise → s.directlyWrites i v d
        { d with
          ctrl := { d.ctrl with int := false, ea := ea, sta := true, sto := true, en := true, ie := ie }
          pend := .stopThenStart }) ∧
      (s.cfg.overlap = .fault →
        exec i s = .next (s.setCur (d.raise .startDuringStop s.issuer.agent))))

/-- R146, R147: a `STOP` word: a stop while the device holds the bus, else recovery at once. A stop
that is already pending stays (R204; for the unreachable phases outside `OWNER`, log entry 11). -/
def Obligations.StopWriteStopsOrRecovers : Prop :=
  ∀ (s : State) (d : Device) (ea wc ie : Bool), s.cfg.chip.ctrl.WellFormed →
    s.devs[s.cur]? = some d → d.busy = false → s.mayTouch d →
    let i : Instr := .ctrlStop ea wc ie
    let v := ctrlWord s.cfg.chip.ctrl true ea false true wc true ie
    let ctrl (sto : Bool) : Ctrl :=
      { d.ctrl with int := false, ea := ea, sta := false, sto := sto, en := true, ie := ie }
    (d.pend = .stop ∨ d.pend = .stopThenStart →
      s.directlyWrites i v d { d with ctrl := ctrl true }) ∧
    (d.pend ≠ .stop → d.pend ≠ .stopThenStart →
      (d.phase.isOwner = true →
        s.directlyWrites i v d { d with ctrl := ctrl true, pend := .stop }) ∧
      (d.phase.isOwner = false →
        s.directlyWrites i v d
          { d with ctrl := ctrl false, phase := .noInfo, pend := .none }))

/-- R144: a `CONTINUE` word, phase by phase. In `ST_PH` the model latches `ack` from `EA` too (log
entry 9: R164 reads it). -/
def Obligations.ContinueWriteTakesTheNextByteStep : Prop :=
  ∀ (s : State) (d : Device) (ea wc ie : Bool), s.cfg.chip.ctrl.WellFormed →
    s.devs[s.cur]? = some d → d.busy = false → s.mayTouch d →
    let i : Instr := .ctrlContinue ea wc ie
    let v := ctrlWord s.cfg.chip.ctrl true ea false false wc true ie
    let w : Device := { d with
      ctrl := { d.ctrl with int := false, ea := ea, sta := false, sto := false, en := true, ie := ie } }
    (d.ctrl.int = false → exec i s = .next (s.setCur (d.raise .continueWithoutEvent s.issuer.agent))) ∧
    (d.ctrl.int = true →
      (d.phase.isAddr = true ∨ d.phase.isMt = true →
        s.directlyWrites i v d { w with txbyte := some d.data, pend := .byte }) ∧
      (d.phase.isMr = true ∨ d.phase.isSrOwn = true ∨ d.phase.isSrGc = true →
        s.directlyWrites i v d { w with ack := some ea, pend := .byte }) ∧
      (d.phase.isMrLast = true →
        exec i s = .next (s.setCur (d.raise .continueAfterLastByte s.issuer.agent))) ∧
      (d.phase = .arbLost ∨ d.phase.isSrEnd = true →
        s.directlyWrites i v d { w with phase := .noInfo, pend := .none }) ∧
      (d.phase.isSt = true → s.directlyWrites i v d
        { w with txbyte := some d.data, ack := some ea, pend := .byte }) ∧
      (d.phase = .busError → s.directlyWrites i v d { w with pend := .byte }) ∧
      (d.phase ∈ [.codeD0, .codeD8, .codeE0, .codeE8, .codeF0, .noInfo] →
        exec i s = .next (s.setCur (d.raise .continueWithoutEvent s.issuer.agent))))

/-- R141: a command written directly while a start or byte step is in flight and no event is pending
faults with `CommandWhileBusy` (the agent is its issuer, log entry 14). R141, R215.3: a control word
written by a slave's host is refused, whatever the word. -/
def Obligations.CommandWhileBusyFaults : Prop :=
  ∀ (s : State) (d : Device) (ea sto wc en ie : Bool) (i : Instr), s.cfg.chip.ctrl.WellFormed →
    s.devs[s.cur]? = some d →
    (d.busy = true ↔ (d.pend = .start ∨ d.pend = .byte) ∧ d.ctrl.int = false ∧
      ¬ (d.pend = .byte ∧ d.phase.isAddressed = true)) ∧
    (i ∈ [.ctrlContinue ea wc ie, .ctrlStart ea wc ie, .ctrlStop ea wc ie] → s.mayTouch d →
      d.busy = true → exec i s = .next (s.setCur (d.raise .commandWhileBusy s.issuer.agent))) ∧
    (i ∈ [.ctrlConfig ea sto wc en ie, .ctrlContinue ea wc ie, .ctrlStart ea wc ie,
        .ctrlStop ea wc ie] → d.role = .slave → s.issuer = .host →
      exec i s = .next (s.setCur
        { d with refused := true, lastRefusal := some .hostTouchesSlaveTransceiver }))

/-! ### Primitives -/

/-- R200 line 1: the refusals in order, and the prescaler and bit-rate value. R200 lines 2 to 4:
`STAT.PS`, then `BR`, then `CTRL`, then the role. `RoleConflict` on a slave device is log entry 12
(R200 against R215.3); the closed bus's slaves: `IllegalWordsAndContextChecksAreRefusedInOrder`. -/
def Obligations.ConfigureMasterChoosesTheBitRateAndProgramsTheRegisters : Prop :=
  (∀ (s : State) (d : Device) (presc : Byte) (scl : BitVec 16), s.standard →
     s.devs[s.cur]? = some d → s.issuer = .host → d.stage = .idle →
     let refusedWith (r : RefuseReason) : Prop :=
       exec (.configureMaster presc scl) s =
         .next (s.setCur { d with refused := true, lastRefusal := some r })
     let hz : Int := (scl.toNat : Int) * 1000
     let rate (p : Int) : Int := ((s.cfg.fCpu.tdiv hz) - 16).tdiv (2 * p)
     let asked : Int := if presc.toNat ∈ [1, 4, 16, 64] then (presc.toNat : Int) else 1
     let p : Int := if rate asked < s.cfg.brMin then 1 else asked
     let ps : BitVec 2 := if p = 4 then 0b01 else if p = 16 then 0b10 else if p = 64 then 0b11 else 0b00
     (d.role = .slave → refusedWith .roleConflict) ∧
     (d.role ≠ .slave → roleOnBus s.cfg s.cur ≠ some .slave →
       (d.ctrl.sto = true → refusedWith .reservedControlWord) ∧
       (d.ctrl.sto = false →
         (scl = 0 → refusedWith .badClock) ∧
         (scl ≠ 0 →
           (rate p < 0 ∨ 255 < rate p → refusedWith .bitRateOutOfRange) ∧
           (0 ≤ rate p → rate p ≤ 255 →
             exec (.configureMaster presc scl) s = .next (s.setCur
               { d with stage := .configureMaster2 ps (BitVec.ofInt 8 (rate p)) })))))) ∧
  (∀ (s : State) (k : Nat) (d : Device) (ps : BitVec 2) (br : Byte), s.standard → s.devs[k]? = some d →
     d.halted .engine = false → d.ctrl.sto = false → d.stage = .configureMaster2 ps br →
     runTurns [.engine k, .engine k, .engine k] s = .next (s.after k .host
       { d with
         ps := ps, br := br
         ctrl := { d.ctrl with ea := false, sta := false, en := true, ie := false }
         phase := if d.ctrl.en then d.phase else .noInfo
         pend := if d.ctrl.en then d.pend else .none
         role := .master, stage := .idle }))

/-- R201: the refusals of line 1 in order, and the three lines (the closed bus's master:
`IllegalWordsAndContextChecksAreRefusedInOrder`). -/
def Obligations.ConfigureSlaveProgramsTheRegisters : Prop :=
  ∀ (s : State) (d : Device) (addr : Addr), s.standard → s.devs[s.cur]? = some d →
    s.issuer = .host →
    d.stage = .idle →
    let refusedWith (r : RefuseReason) : Prop :=
      exec (.configureSlave addr) s = .next (s.setCur { d with refused := true, lastRefusal := some r })
    (d.role = .master → refusedWith .roleConflict) ∧
    (d.role ≠ .master → roleOnBus s.cfg s.cur ≠ some .master →
      (addr = 0 → refusedWith .reservedAddress) ∧
      (addr ≠ 0 → d.ctrl.sto = true → refusedWith .reservedControlWord) ∧
      (addr ≠ 0 → d.ctrl.sto = false →
        exec (.configureSlave addr) s =
          .next (s.setCur { d with stage := .configureSlave2 addr }) ∧
        (d.halted .engine = false →
          runTurns [.engine s.cur, .engine s.cur]
              (s.setCur { d with stage := .configureSlave2 addr }) =
            .next (s.setCur
              { d with
                oadr := addr.zeroExtend 8 <<< 1
                ctrl := { d.ctrl with ea := true, sta := false, en := true, ie := true }
                phase := if d.ctrl.en then d.phase else .noInfo
                pend := if d.ctrl.en then d.pend else .none
                role := .slave, stage := .idle }))))

/-- R203 line 1, with its faults. -/
def Obligations.StartPrimitive : Prop :=
  ∀ (s : State) (d : Device), s.standard → s.masterIssues d →
    (d.busy = true → exec .start s =
      .next (s.setCur ({ d with stage := .start1 }.raise .commandWhileBusy .engine))) ∧
    (d.busy = false →
      (d.pend ≠ .stop → d.pend ≠ .stopThenStart → exec .start s = .next (s.setCur
        { d with
          ctrl := { d.ctrl with
            int := false, ea := false, sta := true, sto := false, en := true, ie := false }
          pend := .start, stage := .start2 })) ∧
      (d.pend = .stop ∨ d.pend = .stopThenStart →
        (s.cfg.overlap = .serialise → exec .start s = .next (s.setCur
          { d with
            ctrl := { d.ctrl with
              int := false, ea := false, sta := true, sto := true, en := true, ie := false }
            pend := .stopThenStart, stage := .start2 })) ∧
        (s.cfg.overlap = .fault → exec .start s =
          .next (s.setCur ({ d with stage := .start1 }.raise .startDuringStop .engine)))))

/-- R204. A stop that is already pending stays, also outside `OWNER` (log entry 11). -/
def Obligations.StopPrimitive : Prop :=
  ∀ (s : State) (d : Device), s.standard → s.masterIssues d →
    let ctrl (sto : Bool) : Ctrl :=
      { d.ctrl with int := false, ea := false, sta := false, sto := sto, en := true, ie := false }
    (d.busy = true → exec .stop s =
      .next (s.setCur ({ d with stage := .stop1 }.raise .commandWhileBusy .engine))) ∧
    (d.busy = false →
      (d.pend = .stop ∨ d.pend = .stopThenStart →
        exec .stop s = .next (s.setCur { d with ctrl := ctrl true })) ∧
      (d.pend ≠ .stop → d.pend ≠ .stopThenStart →
        (d.phase.isOwner = true →
          exec .stop s = .next (s.setCur { d with ctrl := ctrl true, pend := .stop })) ∧
        (d.phase.isOwner = false →
          exec .stop s = .next (s.setCur
            { d with ctrl := ctrl false, phase := .noInfo, pend := .none }))))

/-- R205: `write_byte` from issue to return, the bus answering `code` (drawing `b`): the byte is in
`DATA` and latched, and the masked code is returned. -/
def Obligations.WriteByteSendsAndReturnsTheCode : Prop :=
  ∀ (s : State) (d : Device) (v b : Byte), s.standard → s.masterIssues d →
    (d.ctrl.int = true → exec (.writeByte v) s = .next (s.setCur
      { d with data := v, ctrl := { d.ctrl with wc := false }, stage := .writeByte2 })) ∧
    (d.ctrl.int = false → exec (.writeByte v) s = .next (s.setCur
      { d with ctrl := { d.ctrl with wc := true }, stage := .writeByte2 })) ∧
    (s.cfg.busMode = .openBus → d.halted .engine = false → d.halted .xcvr = false →
      d.ctrl.int = true →
      d.phase.isAddr = true ∨ d.phase.isMt = true →
      ∀ code : Status,
        code ∈ (if d.phase.isMt then [.mtDataAck, .mtDataNack]
          else if v.getLsbD 0 then [.mrSlaAck, .mrSlaNack] else [.mtSlaAck, .mtSlaNack]) ++
          [.arbLost, .busError] →
        runTurns [.engine s.cur, .xcvr s.cur code b, .engine s.cur, .engine s.cur]
            (s.setCur { d with
              data := v, ctrl := { d.ctrl with wc := false }, stage := .writeByte2 }) =
          .next (s.setCur
            { d with
              data := v, txbyte := some v, phase := code, pend := .none
              ctrl := { int := true, ea := false, sta := false, sto := false, wc := false
                        en := true, ie := false }
              ret := .code code.code, stage := .idle }))

/-- R206: `read_byte` from issue to return, the bus answering `code` and the byte `b` (with
`EA = 1` a lost arbitration may also address the device, R154); line 1 in every phase is the control
write of 0xC4 or 0x84. -/
def Obligations.ReadByteReturnsByteAndCode : Prop :=
  ∀ (s : State) (d : Device) (a : Bool) (b : Byte), s.standard → s.masterIssues d →
    (∀ d', ctrlWrite s.cfg (if a then 0xC4 else 0x84) { d with stage := .readByte1 a } = .done d' →
      exec (.readByte a) s = .next (s.setCur { d' with stage := .readByte2 })) ∧
    (d.ctrl.int = false → d.busy = false → exec (.readByte a) s = .next (s.setCur
      ({ d with stage := .readByte1 a }.raise .continueWithoutEvent .engine))) ∧
    (d.ctrl.int = true → d.phase.isMrLast = true → exec (.readByte a) s = .next (s.setCur
      ({ d with stage := .readByte1 a }.raise .continueAfterLastByte .engine))) ∧
    (d.ctrl.int = true → d.phase.isMr = true →
      let d1 : Device := { d with
        ctrl := { d.ctrl with
          int := false, ea := a, sta := false, sto := false, en := true, ie := false }
        ack := some a, pend := .byte, stage := .readByte2 }
      exec (.readByte a) s = .next (s.setCur d1) ∧
      (s.cfg.busMode = .openBus → d.halted .engine = false → d.halted .xcvr = false →
        ∀ code : Status,
        code ∈ [if a then .mrDataAck else .mrDataNack, .arbLost, .busError] ++
          (if a then [.srArbLostSlaAck, .stArbLostSlaAck] else []) ++
          (if a && d.oadr.getLsbD 0 then [.srArbLostGcallAck] else []) →
        runTurns [.xcvr s.cur code b, .engine s.cur, .engine s.cur, .engine s.cur] (s.setCur d1) =
          .next (s.setCur
            { d1 with
              data := b, phase := code, pend := .none, ctrl := { d1.ctrl with int := true }
              ret := .byteCode b code.code, stage := .idle })))

/-- R213: `read_status` returns the masked code and changes nothing. R209, R174: `read_data` returns
`DATA` while an event is pending; else a free value, one per read (nothing is known of
`Config.busyData`; the counter `draws` is the model's, log entry 5). R208, R172, R173: `load_data`
by a master's host and by a slave's handler. -/
def Obligations.StatusAndDataPrimitives : Prop :=
  (∀ (s : State) (d : Device), s.standard → s.masterIssues d ∨ s.handlerIssues d →
     exec .readStatus s = .next (s.setCur
       { d with ret := .code (if d.ctrl.int then d.phase.code else 0xF8) })) ∧
  (∀ (s : State) (d : Device), s.masterIssues d ∨ s.handlerIssues d →
     (d.ctrl.int = true → exec .readData s = .next (s.setCur { d with ret := .byte d.data })) ∧
     (d.ctrl.int = false → exec .readData s = .next (s.setCur
       { d with ret := .byte (Config.busyData d.par.id d.draws), draws := d.draws + 1 }))) ∧
  (∀ (s : State) (d : Device) (v : Byte), s.masterIssues d ∨ s.handlerIssues d →
     (d.ctrl.int = true → exec (.loadData v) s = .next (s.setCur
       { d with data := v, ctrl := { d.ctrl with wc := false } })) ∧
     (d.ctrl.int = false → exec (.loadData v) s = .next (s.setCur
       { d with ctrl := { d.ctrl with wc := true } })))

/-- R210: `set_ack` reads `CTRL` in line 1 and writes `EA` in line 2, and never clears an event. -/
def Obligations.SetAckKeepsAPendingEvent : Prop :=
  ∀ (s : State) (d : Device) (a : Bool), s.standard → s.masterIssues d →
    (d.ctrl.sto = true → exec (.setAck a) s = .next (s.setCur
      { d with refused := true, lastRefusal := some .setAckDuringStop })) ∧
    (d.ctrl.sto = false →
      exec (.setAck a) s = .next (s.setCur { d with stage := .setAck2 (d.ctrl.toByte standardCtrl) a }) ∧
      (d.halted .engine = false → d.ctrl.en = true →
        runTurns [.engine s.cur] (s.setCur { d with stage := .setAck2 (d.ctrl.toByte standardCtrl) a }) =
          .next (s.setCur { d with ctrl := { d.ctrl with ea := a, sta := false } })) ∧
      (d.halted .engine = false → d.ctrl.en = false →
        runTurns [.engine s.cur] (s.setCur { d with stage := .setAck2 (d.ctrl.toByte standardCtrl) a }) =
          .next (s.setCur
            { d with
              ctrl := { d.ctrl with int := false, ea := a, sta := false }
              phase := .noInfo, pend := .none })))

/-- R207, R211, R212 issued by the handler: each is one control write, and with an event pending it
has the effect of R144 or R147 (in `ST_PH` the latch `ack` takes `EA` too: log entry 9). R207, R211: without
an event, arm_for_reply and clear_event of the handler fault, as `ContinueWithoutEvent`; R211, R212: with
`EN = 0` clear_event and recover are refused. -/
def Obligations.HandlerPrimitives : Prop :=
  (∀ (s : State) (d : Device), s.standard → s.handlerIssues d →
     let c := d.ctrl.toByte standardCtrl
     (∀ i v, (i, v) ∈ [(Instr.armForReply, (0xC5 : Byte)), (.clearEvent, (c &&& 0x45) ||| 0x80),
         (.recover, (c &&& 0x45) ||| 0x90)] →
       (∀ d', ctrlWrite s.cfg v d = .done d' → exec i s = .next (s.setCur d')) ∧
       (∀ r, ctrlWrite s.cfg v d = .fault r d → exec i s = .next (s.setCur (d.raise r .handler)))) ∧
     (d.ctrl.int = true → d.ctrl.en = true →
     let ctrl : Ctrl := { d.ctrl with int := false, sta := false, sto := false }
     let armed : Ctrl := { ctrl with ea := true, ie := true }
     (d.phase.isSt = true →
       exec .armForReply s = .next (s.setCur
         { d with ctrl := armed, txbyte := some d.data, ack := some true, pend := .byte }) ∧
       exec .clearEvent s = .next (s.setCur
         { d with ctrl := ctrl, txbyte := some d.data, ack := some d.ctrl.ea, pend := .byte })) ∧
     (d.phase.isSrOwn = true ∨ d.phase.isSrGc = true →
       exec .armForReply s = .next (s.setCur
         { d with ctrl := armed, ack := some true, pend := .byte }) ∧
       exec .clearEvent s = .next (s.setCur
         { d with ctrl := ctrl, ack := some d.ctrl.ea, pend := .byte })) ∧
     (d.phase.isSrEnd = true →
       exec .armForReply s = .next (s.setCur
         { d with ctrl := armed, phase := .noInfo, pend := .none }) ∧
       exec .clearEvent s = .next (s.setCur
         { d with ctrl := ctrl, phase := .noInfo, pend := .none })) ∧
     (d.phase.isOwner = false → d.pend = .none →
       exec .recover s = .next (s.setCur
         { d with ctrl := ctrl, phase := .noInfo, pend := .none })))) ∧
  (∀ (s : State) (d : Device), s.standard → s.handlerIssues d →
     (d.ctrl.int = false → d.busy = false →
       exec .armForReply s = .next (s.setCur (d.raise .continueWithoutEvent .handler)) ∧
       (d.ctrl.en = true →
         exec .clearEvent s = .next (s.setCur (d.raise .continueWithoutEvent .handler)))) ∧
     (d.ctrl.en = false →
       exec .clearEvent s = .next (s.setCur
         { d with refused := true, lastRefusal := some .reservedControlWord }) ∧
       exec .recover s = .next (s.setCur
         { d with refused := true, lastRefusal := some .reservedControlWord })))

/-! ### The engine -/

/-- R200–R210, R246, R247: the stages that write `CTRL`: the word each writes and its successor; a
control write that faults leaves the stage where it is. The last lines of `configure_*` and `set_ack`,
met with a stop pending (only direct writes lead there), are refused and the stage stays (log entry
23). -/
def Obligations.GoStagesWriteTheirControlWord : Prop :=
  ∀ (s : State) (k : Nat) (d : Device), s.standard → s.devs[k]? = some d →
    d.halted .engine = false →
    (∀ (st nxt : Stage) (v : Byte), d.stage = st →
      (st, v, nxt) ∈ [(.start1, 0xA4, .start2), (.writeByte2, 0x84, .writeByte3),
      (.readByte1 false, 0x84, .readByte2), (.readByte1 true, 0xC4, .readByte2),
      (.wcStartGo, 0xA4, .wcStartWait), (.wcAddrGo, 0x84, .wcAddrWait),
      (.wcDataGo, 0x84, .wcDataWait), (.rrStartGo, 0xA4, .rrStartWait),
      (.rrAddrGo, 0x84, .rrAddrWait), (.rrReadGo, 0x84, .rrReadWait)] →
      (∀ d', ctrlWrite s.cfg v d = .done d' →
        stepTurn (.engine k) s = .next (s.after k .host { d' with stage := nxt })) ∧
      (∀ r d', ctrlWrite s.cfg v d = .fault r d' →
        stepTurn (.engine k) s = .next (s.after k .host (d.raise r .engine)))) ∧
    (d.ctrl.sto = true →
      d.stage = .configureMaster4 ∨ d.stage = .configureSlave3 ∨ (∃ c a, d.stage = .setAck2 c a) →
      stepTurn (.engine k) s = .next (s.after k .host
        { d with refused := true, lastRefusal := some .reservedControlWord }))

/-- R202, R245: a hold moves on, with no other effect, exactly when `CTRL.INT = 1`; until then
nothing changes. R205 line 4, R206 lines 3 and 4: what a primitive returns, and that its stage goes
back to `Idle` (R216). -/
def Obligations.HoldsWaitAndPrimitivesReturn : Prop :=
  (∀ (s : State) (k : Nat) (d : Device) (st nxt : Stage), s.devs[k]? = some d →
     d.halted .engine = false → d.stage = st →
     (st, nxt) ∈ [(.start2, .idle), (.writeByte3, .writeByte4), (.readByte2, .readByte3),
       (.wcStartWait, .wcAddrLoad), (.wcAddrWait, .wcAddrTest), (.wcDataWait, .wcDataTest),
       (.rrStartWait, .rrAddrLoad), (.rrAddrWait, .rrAddrTest), (.rrReadWait, .rrReadTest)] →
     (d.ctrl.int = true → stepTurn (.engine k) s = .next (s.after k .host { d with stage := nxt })) ∧
     (d.ctrl.int = false → stepTurn (.engine k) s = .next (s.after k .host d))) ∧
  (∀ (s : State) (k : Nat) (d : Device) (code : Byte), s.devs[k]? = some d →
     d.halted .engine = false →
     (d.stage = .writeByte4 → stepTurn (.engine k) s = .next (s.after k .host
       { d with ret := .code (d.statusCode s.cfg.chip), stage := .idle })) ∧
     (d.stage = .readByte3 → stepTurn (.engine k) s = .next (s.after k .host
       { d with stage := .readByte4 (d.statusCode s.cfg.chip) })) ∧
     (d.stage = .readByte4 code → d.ctrl.int = true → stepTurn (.engine k) s = .next (s.after k .host
       { d with ret := .byteCode d.data code, stage := .idle })) ∧
     (d.stage = .readByte4 code → d.ctrl.int = false → stepTurn (.engine k) s = .next (s.after k .host
       { d with
         ret := .byteCode (Config.busyData d.par.id d.draws) code, draws := d.draws + 1
         stage := .idle })))

/-- R246, R247 `issue`: the operands are latched and the engine goes to `start_go` (the issue stage runs in
the step of the issue, log entry 6; as a stage of its own it does the same). R246, R247,
R258: the `_load` stages write the address byte with its direction bit, or the command; with an
event pending the byte is stored, else it is lost. -/
def Obligations.TransactionsAreIssuedAndLoadTheirBytes : Prop :=
  (∀ (s : State) (d : Device) (addr : Addr) (b : Byte), s.masterIssues d →
     exec (.writeCommand addr b) s = .next (s.setCur
       { d with eng := { d.eng with addr := some addr, cmd := some b }, stage := .wcStartGo }) ∧
     exec (.readResponse addr) s = .next (s.setCur
       { d with eng := { d.eng with addr := some addr }, stage := .rrStartGo })) ∧
  (∀ (s : State) (k : Nat) (d : Device) (addr : Addr) (b : Byte), s.devs[k]? = some d →
     d.halted .engine = false →
     (d.stage = .wcIssue addr b → stepTurn (.engine k) s = .next (s.after k .host
       { d with eng := { d.eng with addr := some addr, cmd := some b }, stage := .wcStartGo })) ∧
     (d.stage = .rrIssue addr → stepTurn (.engine k) s = .next (s.after k .host
       { d with eng := { d.eng with addr := some addr }, stage := .rrStartGo }))) ∧
  (∀ (s : State) (k : Nat) (d : Device) (st nxt : Stage) (v : Byte), s.devs[k]? = some d →
     d.halted .engine = false → d.stage = st →
     (∃ a, d.eng.addr = some a ∧ st = .wcAddrLoad ∧ nxt = .wcAddrGo ∧ v = a ++ 0#1) ∨
     (∃ a, d.eng.addr = some a ∧ st = .rrAddrLoad ∧ nxt = .rrAddrGo ∧ v = a ++ 1#1) ∨
     (d.eng.cmd = some v ∧ st = .wcDataLoad ∧ nxt = .wcDataGo) →
     (d.ctrl.int = true → stepTurn (.engine k) s = .next (s.after k .host
       { d with data := v, ctrl := { d.ctrl with wc := false }, stage := nxt })) ∧
     (d.ctrl.int = false → stepTurn (.engine k) s = .next (s.after k .host
       { d with ctrl := { d.ctrl with wc := true }, stage := nxt })))

/-- R243: `classify`. R241, R246, R247: each `_test` stage latches the masked code and accepts its
own codes only. -/
def Obligations.TestStagesAcceptTheirCodesAndClassifyNamesTheOutcome : Prop :=
  (∀ code : Byte,
     (code ∈ [0x20, 0x30, 0x48] → classify standardStatus code = .noAck code) ∧
     (code ∈ [0x38, 0x68, 0x78, 0xB0] → classify standardStatus code = .arbLost code) ∧
     (code ∉ [0x20, 0x30, 0x48] → code ∉ [0x38, 0x68, 0x78, 0xB0] →
       classify standardStatus code = .unexpected code)) ∧
  (∀ (s : State) (k : Nat) (d : Device), s.standard → s.devs[k]? = some d →
     d.halted .engine = false →
     let code := d.statusCode standardChip
     (∀ st good bad acc,
       (st, acc, good, bad) ∈ [(.wcAddrTest, [0x18], .wcDataLoad, .wcAbort),
         (.wcDataTest, [0x28], .wcFinish, .wcAbort),
         (.rrAddrTest, ([0x40] : List Byte), .rrReadGo, .rrAbort)] →
       d.stage = st →
       (code ∈ acc → stepTurn (.engine k) s = .next (s.after k .host
         { d with eng := { d.eng with code := some code }, stage := good })) ∧
       (code ∉ acc → stepTurn (.engine k) s = .next (s.after k .host
         { d with eng := { d.eng with code := some code }, stage := bad }))) ∧
     (d.stage = .rrReadTest → d.ctrl.int = true →
       stepTurn (.engine k) s = .next (s.after k .host
         { d with
           eng := { d.eng with code := some code, byte := some d.data }
           stage := if code = 0x50 ∨ code = 0x58 then .rrFinish else .rrAbort })))

/-- R255, R256: `finish` and `abort` write the stop word 0x94, set the outcome and go to `Idle`, all
in one step; no other stage of the two operations sets an outcome. -/
def Obligations.OperationsEndWithAStopWord : Prop :=
  ∀ (s : State) (k : Nat) (d : Device), s.standard → s.devs[k]? = some d → d.halted .engine = false →
    (∀ o, (d.stage = .wcFinish ∧ o = .success) ∨
        (∃ b, d.stage = .rrFinish ∧ d.eng.byte = some b ∧ o = .successByte b) ∨
        (∃ c, (d.stage = .wcAbort ∨ d.stage = .rrAbort) ∧ d.eng.code = some c ∧
          o = classify standardStatus c) →
      ∀ d', ctrlWrite s.cfg 0x94 d = .done d' →
        stepTurn (.engine k) s = .next (s.after k .host
          { d' with eng := { d'.eng with outcome := some o }, stage := .idle })) ∧
    (∀ s' d', stepTurn (.engine k) s = .next s' → s'.devs[k]? = some d' →
      d'.eng.outcome ≠ d.eng.outcome → d'.stage = .idle ∧ ctrlWrite s.cfg 0x94 d =
        .done { d' with eng := d.eng, stage := d.stage })

/-- R246, R255–R257, R260, the vectors of 7.1: a whole `write_command` on the open bus, for every
answer, also to the start (a bus error there, after which any code may follow, R242): the outcome, the
bytes written and the stop. -/
def Obligations.WriteCommandRuns : Prop :=
  ∀ (s : State) (k : Nat) (d : Device) (addr : Addr) (b x : Byte), s.standard →
    s.devs[k]? = some d → s.cfg.busMode = .openBus → d.halted .host = false →
    d.halted .engine = false → d.halted .xcvr = false →
    d.role = .master → d.stage = .idle → d.ctrl.int = false → d.ctrl.sto = false → d.pend = .none →
    d.phase = .noInfo →
    let e := Turn.engine k
    let toAddress (started : Status) := [.issue k .host (0xD0000000#32 |||
      (addr.zeroExtend 32 <<< 16) ||| (b.zeroExtend 32 <<< 8)), e, .xcvr k started x, e, e, e]
    let ends (turns : List Turn) (o : EngOutcome) (last : Byte) (code : Status) : Prop :=
      ∃ d', runTurns turns s = .next (s.after k .host d') ∧
        d'.eng.outcome = some o ∧ d'.stage = .idle ∧ d'.data = last ∧ d'.faults = d.faults ∧
        d'.refused = d.refused ∧ d'.eng.code = some code.code ∧ d'.ctrl.int = false ∧
        (code.isOwner = true → d'.pend = .stop ∧ d'.ctrl.sto = true ∧ d'.phase = code) ∧
        (code.isOwner = false → d'.pend = .none ∧ d'.ctrl.sto = false ∧ d'.phase = .noInfo)
    (∀ c ∈ [Status.mtSlaNack, .arbLost, .busError],
      ends (toAddress .start ++ [.xcvr k c x, e, e, e]) (classify standardStatus c.code)
        (addr ++ 0#1) c) ∧
    (∀ c : Status, c ≠ .mtSlaAck → c ≠ .noInfo →
      ends (toAddress .busError ++ [.xcvr k c x, e, e, e]) (classify standardStatus c.code) x c) ∧
    ∀ started ∈ [Status.start, .busError],
      let toData := toAddress started ++ [.xcvr k .mtSlaAck x, e, e, e, e]
      (∀ c ∈ [Status.mtDataNack, .arbLost, .busError],
        ends (toData ++ [.xcvr k c x, e, e, e]) (classify standardStatus c.code) b c) ∧
      ends (toData ++ [.xcvr k .mtDataAck x, e, e, e]) .success b .mtDataAck

/-- R247, R255–R257, R260, the vectors of 7.1: a whole `read_response` on the open bus, for every
answer, also to the start (a bus error there, after which any code may follow, R242), and every
received byte. -/
def Obligations.ReadResponseRuns : Prop :=
  ∀ (s : State) (k : Nat) (d : Device) (addr : Addr) (b x : Byte), s.standard →
    s.devs[k]? = some d → s.cfg.busMode = .openBus → d.halted .host = false →
    d.halted .engine = false → d.halted .xcvr = false →
    d.role = .master → d.stage = .idle → d.ctrl.int = false → d.ctrl.sto = false → d.pend = .none →
    d.phase = .noInfo →
    let e := Turn.engine k
    let toAddress (started : Status) := [.issue k .host (0xE0000000#32 |||
      (addr.zeroExtend 32 <<< 16)), e, .xcvr k started x, e, e, e]
    let ends (turns : List Turn) (o : EngOutcome) (last : Byte) (code : Status) : Prop :=
      ∃ d', runTurns turns s = .next (s.after k .host d') ∧
        d'.eng.outcome = some o ∧ d'.stage = .idle ∧ d'.data = last ∧ d'.faults = d.faults ∧
        d'.refused = d.refused ∧ d'.eng.code = some code.code ∧ d'.ctrl.int = false ∧
        (code.isOwner = true → d'.pend = .stop ∧ d'.ctrl.sto = true ∧ d'.phase = code) ∧
        (code.isOwner = false → d'.pend = .none ∧ d'.ctrl.sto = false ∧ d'.phase = .noInfo)
    (∀ c ∈ [Status.mrSlaNack, .arbLost, .busError],
      ends (toAddress .start ++ [.xcvr k c x, e, e, e]) (classify standardStatus c.code)
        (addr ++ 1#1) c) ∧
    (∀ c : Status, c ≠ .mrSlaAck → c ≠ .noInfo →
      ends (toAddress .busError ++ [.xcvr k c x, e, e, e]) (classify standardStatus c.code) x c) ∧
    ∀ started ∈ [Status.start, .busError],
      let toData := toAddress started ++ [.xcvr k .mrSlaAck x, e, e, e]
      (∀ c ∈ [Status.arbLost, .busError],
        ends (toData ++ [.xcvr k c b, e, e, e]) (classify standardStatus c.code) b c) ∧
      ends (toData ++ [.xcvr k .mrDataNack b, e, e, e]) (.successByte b) b .mrDataNack

/-! ### The transceiver on the open bus -/

/-- R150–R155, R160: a completion: the codes the relation admits are taken, with the event; any
other draw is no step. `DATA` is drawn on a receive, and on any completion from phase 0x00 (R150;
for a START from 0x00, log entry 10). -/
def Obligations.CompletionsFollowTheRelation : Prop :=
  ∀ (s : State) (k : Nat) (d : Device) (code : Status) (b : Byte), s.devs[k]? = some d →
    s.cfg.busMode = .openBus → d.halted .xcvr = false → d.ctrl.en = true →
    d.ctrl.int = false →
    let arb := arbSet d.ctrl.ea (d.oadr.getLsbD s.cfg.chip.oadr.gce)
    let follows (codes : List Byte) (data : Byte) : Prop :=
      (code.code ∈ codes → stepTurn (.xcvr k code b) s = .next (s.after k .host
        { d with
          phase := code, pend := .none, data := data, ctrl := { d.ctrl with int := true } })) ∧
      (code.code ∉ codes → stepTurn (.xcvr k code b) s = .next (s.after k .host d))
    (d.pend = .start → d.phase.isOwner = true → follows [0x10, 0x00] d.data) ∧
    (d.pend = .start → d.phase.isOwner = false →
      follows [0x08, 0x00] (if d.phase = .busError then b else d.data)) ∧
    (d.pend = .byte → d.phase.isAddr = true → ∀ t, d.txbyte = some t →
      follows ((if t.getLsbD 0 then [0x40, 0x48] else [0x18, 0x20]) ++ [0x00] ++ arb) d.data) ∧
    (d.pend = .byte → d.phase.isMt = true → follows ([0x28, 0x30, 0x00] ++ arb) d.data) ∧
    (d.pend = .byte → d.phase.isMr = true → ∀ a, d.ack = some a →
      follows ([if a then 0x50 else 0x58, 0x00] ++ arb) b) ∧
    (d.pend = .byte → d.phase = .busError →
      follows ((List.range 31).map fun n => BitVec.ofNat 8 (8 * n)) b)

/-- R156: stop execution. R148, R161, R354: the transceiver takes no step while `EN = 0` or while an
event is pending (a stop apart), and on the closed bus only joint steps occur (R312); it and the
handler are never enabled together. -/
def Obligations.TransceiverHoldsAndStops : Prop :=
  (∀ (s : State) (k : Nat) (d : Device) (code : Status) (b : Byte), s.devs[k]? = some d →
     s.cfg.busMode = .openBus → d.halted .xcvr = false → d.ctrl.en = true →
     (d.pend = .stop → stepTurn (.xcvr k code b) s = .next (s.after k .host
       { d with phase := .noInfo, pend := .none, ctrl := { d.ctrl with sto := false } })) ∧
     (d.pend = .stopThenStart → stepTurn (.xcvr k code b) s = .next (s.after k .host
       { d with phase := .noInfo, pend := .start, ctrl := { d.ctrl with sto := false } }))) ∧
  (∀ (s : State) (k : Nat) (d : Device) (code : Status) (b : Byte), s.devs[k]? = some d →
     (d.ctrl.en = false → s.cfg.busMode = .openBus →
       stepTurn (.xcvr k code b) s = .next (s.after k .host d)) ∧
     (d.ctrl.int = true → d.pend ≠ .stop → d.pend ≠ .stopThenStart → s.cfg.busMode = .openBus →
       stepTurn (.xcvr k code b) s = .next (s.after k .host d)) ∧
     (s.cfg.busMode = .closedBus →
       stepTurn (.xcvr k code b) s = .next { s with cur := k, issuer := .host }) ∧
     (s.cfg.busMode = .openBus → stepTurn .joint s = .next s) ∧
     (d.handlerEnabled = true → completionEnabled d = false ∧ slaveEventEnabled d = false))

/-- R161–R165: slave events: the codes the relation admits are taken, any other draw is no step, and
`DATA` is drawn with a received byte only. -/
def Obligations.SlaveEventsFollowTheRelation : Prop :=
  ∀ (s : State) (k : Nat) (d : Device) (code : Status) (b : Byte), s.devs[k]? = some d →
    s.cfg.busMode = .openBus → d.halted .xcvr = false → d.ctrl.en = true →
    d.ctrl.int = false → d.ctrl.sto = false →
    let data := if code.code ∈ [0x80, 0x88, 0x90, 0x98] then b else d.data
    let follows (codes : List Byte) : Prop :=
      (code.code ∈ codes → stepTurn (.xcvr k code b) s = .next (s.after k .host
        { d with
          phase := code, pend := .none, data := data, ctrl := { d.ctrl with int := true } })) ∧
      (code.code ∉ codes → stepTurn (.xcvr k code b) s = .next (s.after k .host d))
    (d.pend = .none → d.phase = .noInfo →
      follows (if d.ctrl.ea then
        (if d.oadr.getLsbD s.cfg.chip.oadr.gce then [0x60, 0x70, 0xA8, 0x00]
          else [0x60, 0xA8, 0x00]) else [0x00])) ∧
    (d.pend = .byte → ∀ a, d.ack = some a →
      (d.phase.isSrOwn = true → follows [if a then 0x80 else 0x88, 0xA0, 0x00]) ∧
      (d.phase.isSrGc = true → follows [if a then 0x90 else 0x98, 0xA0, 0x00]) ∧
      (d.phase.isSt = true → follows [if a then 0xB8 else 0xC8, 0xC0, 0x00]))

/-! ### The closed bus -/

/-- R313: while any slave's event flag is set, or the master's, or its transceiver is off, no joint
step occurs; nor with no command pending. That a halted transceiver of the master takes none either is
the model's reading, log entry 18 (DEDUCED: R312 makes the joint steps those of the master's transceiver,
and R345 halts an agent). R314, R319: a start, and a stop's execution, at the master; the addressed
slave, if there is one, sees 0xA0, and nobody is addressed afterwards. -/
def Obligations.JointStepsHoldStartAndStop : Prop :=
  (∀ (s : State) (m : Device) (ds : List Device), s.cfg.busMode = .closedBus → s.devs = m :: ds →
     ((∃ d ∈ ds, d.ctrl.int = true) ∨ m.ctrl.int = true ∨ m.ctrl.en = false ∨
       m.halted .xcvr = true ∨ m.pend = .none) →
     stepTurn .joint s = .next s) ∧
  (∀ (s : State) (m : Device) (ds : List Device), s.cfg.busMode = .closedBus → s.devs = m :: ds →
     m.halted .xcvr = false → m.ctrl.en = true → m.ctrl.int = false → (∀ d ∈ ds, d.ctrl.int = false) →
     let started (code : Status) : Device :=
       { m with phase := code, pend := .none, ctrl := { m.ctrl with int := true } }
     let stopped : Device :=
       { m with
         phase := .noInfo, pend := if m.pend = .stopThenStart then .start else .none
         ctrl := { m.ctrl with sto := false } }
     let ended (d : Device) : Device :=
       { d with phase := .srStop, pend := .none, ctrl := { d.ctrl with int := true } }
     let isStop := m.pend = .stop ∨ m.pend = .stopThenStart
     (m.pend = .start → m.phase.isOwner = false →
       stepTurn .joint s = .next { s with devs := started .start :: ds }) ∧
     (∀ k d, s.target = some (k + 1) → ds[k]? = some d →
       (m.pend = .start → m.phase.isOwner = true →
         (d.phase.isAddressed = true → stepTurn .joint s =
           .next { s with devs := started .repStart :: ds.set k (ended d), target := none }) ∧
         (d.phase.isAddressed = false → stepTurn .joint s =
           .next { s with devs := started .repStart :: ds, target := none })) ∧
       (isStop →
         (d.phase.isAddressed = true → d.pend = .byte → stepTurn .joint s =
           .next { s with devs := stopped :: ds.set k (ended d), target := none }) ∧
         (d.phase.isAddressed = false ∨ d.pend ≠ .byte → stepTurn .joint s =
           .next { s with devs := stopped :: ds, target := none }))) ∧
     (s.target = none →
       (m.pend = .start → m.phase.isOwner = true → stepTurn .joint s =
         .next { s with devs := started .repStart :: ds }) ∧
       (isStop → stepTurn .joint s = .next { s with devs := stopped :: ds })))

/-- R315: the address byte: exactly one slave that answers is addressed; with none the master gets a
NACK. -/
def Obligations.JointAddressByte : Prop :=
  ∀ (s : State) (m : Device) (ds : List Device) (t : Byte), s.cfg.busMode = .closedBus →
    s.devs = m :: ds → m.halted .xcvr = false → m.ctrl.en = true → m.ctrl.int = false →
    (∀ d ∈ ds, d.ctrl.int = false) →
    m.pend = .byte → m.phase.isAddr = true → m.txbyte = some t →
    let master (code : Status) : Device :=
      { m with phase := code, pend := .none, ctrl := { m.ctrl with int := true } }
    let hears (d : Device) : Prop :=
      d.ctrl.en = true ∧ d.ctrl.ea = true ∧
        d.oadr.extractLsb' s.cfg.chip.oadr.addrLo 7 = t.extractLsb' 1 7 ∧ d.phase = .noInfo ∧ d.pend = .none
    (∀ k d, ds[k]? = some d → hears d → (∀ j e, ds[j]? = some e → hears e → j = k) →
      stepTurn .joint s = .next { s with
        devs := master (if t.getLsbD 0 then .mrSlaAck else .mtSlaAck) :: ds.set k
          { d with
            phase := if t.getLsbD 0 then .stSlaAck else .srSlaAck
            pend := .none, ctrl := { d.ctrl with int := true } }
        target := some (k + 1) }) ∧
    ((∀ d ∈ ds, ¬ hears d) →
      stepTurn .joint s = .next { s with
        devs := master (if t.getLsbD 0 then .mrSlaNack else .mtSlaNack) :: ds
        target := none })

/-- R316: a data byte to the addressed slave, or to nobody. -/
def Obligations.JointTransmitByte : Prop :=
  ∀ (s : State) (m : Device) (ds : List Device) (t : Byte), s.cfg.busMode = .closedBus →
    s.devs = m :: ds → m.halted .xcvr = false → m.ctrl.en = true → m.ctrl.int = false →
    (∀ d ∈ ds, d.ctrl.int = false) →
    m.pend = .byte → m.phase.isMt = true → m.txbyte = some t →
    let master (code : Status) : Device :=
      { m with phase := code, pend := .none, ctrl := { m.ctrl with int := true } }
    (∀ k d a, s.target = some (k + 1) → ds[k]? = some d → d.phase.isSrOwn = true → d.pend = .byte →
      d.ack = some a →
      stepTurn .joint s = .next { s with
        devs := master (if a then .mtDataAck else .mtDataNack) :: ds.set k
          { d with
            data := t, phase := if a then .srDataAck else .srDataNack, pend := .none
            ctrl := { d.ctrl with int := true } } }) ∧
    ((s.target = none ∨ ∃ k d, s.target = some (k + 1) ∧ ds[k]? = some d ∧
        (d.phase.isSrOwn = false ∨ d.pend ≠ .byte)) →
      stepTurn .joint s = .next { s with devs := master .mtDataNack :: ds })

/-- R317: a data byte from the addressed slave, or 0xFF from a released bus. -/
def Obligations.JointReceiveByte : Prop :=
  ∀ (s : State) (m : Device) (ds : List Device) (ackM : Bool), s.cfg.busMode = .closedBus →
    s.devs = m :: ds → m.halted .xcvr = false → m.ctrl.en = true → m.ctrl.int = false →
    (∀ d ∈ ds, d.ctrl.int = false) →
    m.pend = .byte → m.phase.isMr = true → m.ack = some ackM →
    let master (data : Byte) : Device :=
      { m with
        data := data, phase := if ackM then .mrDataAck else .mrDataNack, pend := .none
        ctrl := { m.ctrl with int := true } }
    (∀ k d a t, s.target = some (k + 1) → ds[k]? = some d → d.phase.isSt = true → d.pend = .byte →
      d.ack = some a → d.txbyte = some t →
      stepTurn .joint s = .next { s with
        devs := master t :: ds.set k
          { d with
            phase := if ackM then (if a then .stDataAck else .stLastData) else .stDataNack
            pend := .none, ctrl := { d.ctrl with int := true } } }) ∧
    ((s.target = none ∨ ∃ k d, s.target = some (k + 1) ∧ ds[k]? = some d ∧
        (d.phase.isSt = false ∨ d.pend ≠ .byte)) →
      stepTurn .joint s = .next { s with devs := master 0xFF :: ds })

/-- R318: on the closed bus, `read_response` of the slave's address returns `RESP` as the handler
read it, whatever the byte, and the slave sees 0xA8, then 0xC0 (R323). R321: of an address that is no
slave's it returns `NoAck(0x48)` and the slave sees no event. -/
def Obligations.ClosedBusReadReturnsTheResponseValue : Prop :=
  ∀ (s : State) (m d : Device) (addr : Addr), s.standard → s.cfg.busMode = .closedBus → s.devs = [m, d] →
    m.role = .master → m.stage = .idle → m.ctrl.int = false → m.ctrl.sto = false → m.pend = .none →
    m.phase = .noInfo → m.faults = [] →
    d.role = .slave → d.ctrl = Ctrl.ofByte standardCtrl 0x45 →
    d.pend = .none → d.phase = .noInfo → d.gie = true → d.faults = [] →
    let e := Turn.engine 0
    let toAddress := [.issue 0 .host (0xE0000000#32 ||| (addr.zeroExtend 32 <<< 16)), e, .joint, e, e,
      e, .joint]
    (d.oadr.extractLsb' 1 7 ≠ addr →
      ∃ m1, runTurns (toAddress ++ [e, e, e]) s =
          .next { s with devs := [m1, d], target := none, cur := 0, issuer := .host } ∧
        m1.eng.outcome = some (.noAck 0x48) ∧ m1.stage = .idle ∧ m1.pend = .stop) ∧
    (d.oadr = addr ++ 0#1 → ∃ m1 d1 m2 d2,
      runTurns toAddress s = .next { s with devs := [m1, d1], target := some 1, cur := 0, issuer := .host } ∧
      d1.phase = .stSlaAck ∧ d1.ctrl.int = true ∧
      runTurns [.handler 1, e, e, e, .joint] { s with devs := [m1, d1], target := some 1 } =
        .next { s with devs := [m2, d2], target := some 1, cur := 0, issuer := .host } ∧
      d2.phase = .stDataNack ∧ d2.ctrl.int = true ∧
      ∃ m3 d3, runTurns [e, e, e, .handler 1, .joint] { s with devs := [m2, d2], target := some 1 } =
          .next { s with devs := [m3, d3], target := none, cur := 1, issuer := .handler } ∧
        m3.eng.outcome = some (.successByte d.resp) ∧ m3.stage = .idle ∧ m3.phase = .noInfo ∧
        m3.ctrl.sto = false ∧ d3.phase = .noInfo ∧ d3.ctrl = d.ctrl ∧ d3.gie = true ∧
        d3.cell = d.cell ∧ d3.resp = d.resp)

/-- R321: on the closed bus, `write_command` to the slave's address succeeds and leaves the byte in
`CELL`; to any other address, or while the slave is not back in the unaddressed state (its phase is not 0xF8,
or it waits for its master), it returns `NoAck(0x20)` and the slave sees no event. -/
def Obligations.ClosedBusWriteReachesTheCell : Prop :=
  ∀ (s : State) (m d : Device) (addr : Addr) (x : Byte), s.standard → s.cfg.busMode = .closedBus →
    s.devs = [m, d] → m.role = .master → m.stage = .idle → m.ctrl.int = false →
    m.ctrl.sto = false → m.pend = .none → m.phase = .noInfo → m.faults = [] →
    d.role = .slave → d.ctrl = Ctrl.ofByte standardCtrl 0x45 →
    d.gie = true → d.faults = [] →
    let e := Turn.engine 0
    let toAddress := [.issue 0 .host (0xD0000000#32 ||| (addr.zeroExtend 32 <<< 16) |||
      (x.zeroExtend 32 <<< 8)), e, .joint, e, e, e, .joint]
    (d.pend = .none → d.phase = .noInfo → d.oadr = addr ++ 0#1 →
      ∃ m1 d1, runTurns (toAddress ++ [.handler 1, e, e, e, e, .joint, .handler 1, e, e, e, .joint,
          .handler 1]) s =
          .next { s with devs := [m1, d1], target := none, cur := 1, issuer := .handler } ∧
        m1.eng.outcome = some .success ∧ m1.stage = .idle ∧ m1.phase = .noInfo ∧
        d1.cell = x ∧ d1.resp = d.resp ∧ d1.phase = .noInfo ∧ d1.ctrl = d.ctrl) ∧
    (d.phase ≠ .noInfo ∨ d.pend ≠ .none ∨ d.oadr.extractLsb' 1 7 ≠ addr →
      ∃ m1, runTurns (toAddress ++ [e, e, e]) s =
          .next { s with devs := [m1, d], target := none, cur := 0, issuer := .host } ∧
        m1.eng.outcome = some (.noAck 0x20) ∧ m1.stage = .idle ∧ m1.pend = .stop)

/-! ### The slave's handler -/

/-- R280, R282, R350: the handler runs exactly when `IRQ ∧ GIE` holds on a slave (and no fault of
its own has halted it), and then runs the class of the code it reads (R114). -/
def Obligations.HandlerRunsExactlyWhenItsInterruptIsTaken : Prop :=
  ∀ (s : State) (k : Nat) (d : Device), s.standard → s.devs[k]? = some d →
    let s1 : State := { s with cur := k, issuer := .handler }
    (d.role = .slave → d.ctrl.int = true → d.ctrl.ie = true → d.ctrl.en = true → d.gie = true →
      d.halted .handler = false →
      (d.phase = .srSlaAck → stepTurn (.handler k) s = exec .evtAddrWOwn s1) ∧
      (d.phase = .srGcallAck → stepTurn (.handler k) s = exec .evtAddrWGeneral s1) ∧
      (d.phase = .srDataAck → stepTurn (.handler k) s = exec .evtDataRxOwn s1) ∧
      (d.phase = .srGcallDataAck → stepTurn (.handler k) s = exec .evtDataRxGeneral s1) ∧
      (d.phase = .stSlaAck → stepTurn (.handler k) s = exec .evtDataReqAddress s1) ∧
      (d.phase = .stDataAck → stepTurn (.handler k) s = exec .evtDataReqContinuation s1) ∧
      (d.phase.code ∉ [0x60, 0x70, 0x80, 0x90, 0xA8, 0xB8] →
        stepTurn (.handler k) s = exec (.evtOther d.phase.code) s1)) ∧
    (d.role ≠ .slave ∨ d.ctrl.int = false ∨ d.ctrl.ie = false ∨ d.ctrl.en = false ∨ d.gie = false →
      stepTurn (.handler k) s = .next s1)

/-- R283: clear the event flag, keep listening; `CELL`, `RESP` and `DATA` unchanged. R284: the
received byte, whatever it is, goes to `CELL`; then the event flag is cleared. -/
def Obligations.ReceiveEventsKeepListening : Prop :=
  (∀ (s : State) (d : Device), s.standard → s.devs[s.cur]? = some d → d.ctrl.int = true →
     d.ctrl.en = true →
     let d' : Device := { d with
       ctrl := { d.ctrl with int := false, sta := false, sto := false }
       ack := some d.ctrl.ea, pend := .byte, gie := true }
     (d.phase = .srSlaAck → exec .evtAddrWOwn s = .next (s.setCur d')) ∧
     (d.phase = .srGcallAck → exec .evtAddrWGeneral s = .next (s.setCur d'))) ∧
  (∀ (s : State) (d : Device), s.standard → s.devs[s.cur]? = some d → d.ctrl.int = true →
     d.ctrl.en = true →
     let d' : Device := { d with
       cell := d.data
       ctrl := { d.ctrl with int := false, sta := false, sto := false }
       ack := some d.ctrl.ea, pend := .byte, gie := true }
     (d.phase = .srDataAck → exec .evtDataRxOwn s = .next (s.setCur d')) ∧
     (d.phase = .srGcallDataAck → exec .evtDataRxGeneral s = .next (s.setCur d')))

/-- R285: `RESP` goes to `DATA` and to the transmit latch, and the slave stays armed (`ack` in a
transmitter phase: log entry 9). -/
def Obligations.ReadRequestSendsTheResponseValue : Prop :=
  ∀ (s : State) (d : Device), s.standard → s.devs[s.cur]? = some d → d.ctrl.int = true →
    let d' : Device := { d with
      data := d.resp, txbyte := some d.resp
      ctrl := { int := false, ea := true, sta := false, sto := false, wc := false, en := true, ie := true }
      ack := some true, pend := .byte, gie := true }
    (d.phase = .stSlaAck → exec .evtDataReqAddress s = .next (s.setCur d')) ∧
    (d.phase = .stDataAck → exec .evtDataReqContinuation s = .next (s.setCur d'))

/-- R286: every other code: clear the event flag and recover; on a device that holds the bus the
recovery is a stop (R212). -/
def Obligations.OtherEventsRecover : Prop :=
  ∀ (s : State) (d : Device) (key : Byte), s.standard → s.devs[s.cur]? = some d →
    d.ctrl.int = true →
    d.ctrl.en = true → d.pend = .none → d.phase.code = key →
    let ctrl (sto : Bool) : Ctrl := { d.ctrl with int := false, sta := false, sto := sto }
    (d.phase.isOwner = false → exec (.evtOther key) s = .next (s.setCur
      { d with ctrl := ctrl false, phase := .noInfo, pend := .none, gie := true })) ∧
    (d.phase.isOwner = true → exec (.evtOther key) s = .next (s.setCur
      { d with ctrl := ctrl true, pend := .stop, gie := true }))

/-- R287, R352, R353: whatever the code, one invocation clears the event flag, faults and refuses
nothing, leaves `GIE` set, keeps the enables, and touches no other device. -/
def Obligations.HandlerClearsTheEventOnce : Prop :=
  ∀ (s : State) (k : Nat) (d : Device), s.standard → s.devs[k]? = some d →
    d.handlerEnabled = true →
    ∃ d', stepTurn (.handler k) s = .next (s.after k .handler d') ∧
      d'.ctrl.int = false ∧ d'.faults = d.faults ∧ d'.refused = d.refused ∧ d'.gie = true ∧
      d'.ctrl.en = true ∧ d'.ctrl.ie = true ∧ (d.ctrl.ea = true → d'.ctrl.ea = true) ∧
      d'.role = d.role ∧ d'.stage = d.stage ∧ d'.oadr = d.oadr ∧ d'.br = d.br ∧ d'.ps = d.ps ∧
      d'.resp = d.resp ∧ d'.eng = d.eng ∧ d'.handlerEnabled = false

/-! ### The slave's host -/

/-- R370, R68: what the host of a slave may do with `CELL`, `RESP` and `GIE`, and what is refused
(X11, X13). R370, R243: a master's host reads the outcome of the last finished operation, and not
during one (R215.4; log entry 20); with none to read, the host faults (R41, U27; log entry 18). -/
def Obligations.HostActions : Prop :=
  (∀ (s : State) (k : Nat) (d : Device), s.devs[k]? = some d → d.halted .host = false →
     d.role = .slave →
     stepTurn (.host k .cellRead) s = .next (s.after k .host { d with ret := .byte d.cell }) ∧
     stepTurn (.host k (.cellWrite 0x00)) s = .next (s.after k .host { d with cell := 0x00 }) ∧
     (∀ v, v ≠ 0x00 → stepTurn (.host k (.cellWrite v)) s = .next (s.after k .host
       { d with refused := true, lastRefusal := some .cellWriteNotZero })) ∧
     (∀ v, stepTurn (.host k (.respWrite v)) s = .next (s.after k .host { d with resp := v })) ∧
     (∀ v, stepTurn (.host k (.respWriteWide v)) s = .next (s.after k .host
       { d with refused := true, lastRefusal := some .wideResponseValue })) ∧
     ∀ on, stepTurn (.host k (.setGie on)) s = .next (s.after k .host { d with gie := on })) ∧
  (∀ (s : State) (k : Nat) (d : Device), s.devs[k]? = some d → d.halted .host = false →
     d.role = .master →
     (d.stage = .idle → ∀ o, d.eng.outcome = some o → stepTurn (.host k .readOutcome) s =
       .next (s.after k .host { d with ret := .outcome o })) ∧
     (d.stage = .idle → d.eng.outcome = none → stepTurn (.host k .readOutcome) s =
       .next (s.after k .host (d.raise .unwrittenLatch .host))) ∧
     (d.stage ≠ .idle → stepTurn (.host k .readOutcome) s = .next (s.after k .host
       { d with refused := true, lastRefusal := some .operationInFlight })) ∧
     ∀ v, stepTurn (.host k (.respWriteWide v)) s = .next (s.after k .host
       { d with refused := true, lastRefusal := some .wideResponseValue }))

/-- R290: poll, consume and refresh. R291: the lost request: a `DATA_RX` step between `poll` and
`consume`: the new byte is erased and the request is gone. R292: the stale response: a `DATA_REQ`
step before `refresh` sends the old `RESP`. -/
def Obligations.ForegroundConsumesTheRequestAndRacesAreAdmitted : Prop :=
  (∀ (s : State) (k : Nat) (d : Device) (v : Byte), s.devs[k]? = some d → d.halted .host = false →
     d.role = .slave →
     (d.fg = .poll → d.cell = d.par.reqMarker →
       stepTurn (.host k .poll) s = .next (s.after k .host
         { d with ret := .byte d.cell, fg := .consume }) ∧
       runTurns [.host k .poll, .host k .consume, .host k (.refresh v)] s = .next (s.after k .host
         { d with ret := .byte d.cell, cell := 0x00, resp := v })) ∧
     (d.fg = .poll → d.cell ≠ d.par.reqMarker →
       stepTurn (.host k .poll) s = .next (s.after k .host { d with ret := .byte d.cell }))) ∧
  (∀ (s : State) (k : Nat) (d : Device) (v : Byte), s.devs[k]? = some d → d.halted .host = false →
     s.standard → d.role = .slave → d.handlerEnabled = true →
     (d.phase = .srDataAck → d.fg = .consume →
       ∃ d1 d2, stepTurn (.handler k) s = .next (s.after k .handler d1) ∧ d1.cell = d.data ∧
         stepTurn (.host k .consume) (s.after k .handler d1) = .next (s.after k .host d2) ∧
         d2.cell = 0x00 ∧ d2.fg = .refresh) ∧
     (d.phase = .stSlaAck → d.fg = .refresh →
       ∃ d1 d2, stepTurn (.handler k) s = .next (s.after k .handler d1) ∧
         stepTurn (.host k (.refresh v)) (s.after k .handler d1) = .next (s.after k .host d2) ∧
         d2.txbyte = some d.resp ∧ d2.resp = v))

/-! ### Invariants and whole-machine rules -/

/-- Every step of every agent keeps the invariant of the system (`State.Inv`). -/
def Obligations.EveryStepKeepsTheInvariant : Prop :=
  ∀ s s' : State, s.Inv → step s = .next s' → s'.Inv

/-- The invariant holds after reset, for any parameters whose reset values leave no event and no stop
pending; R46's do. -/
def Obligations.ResetMeetsTheInvariant : Prop :=
  (∀ (cfg : Config) (pars : List DevParams), QuietReset cfg.chip →
     (State.resetWith cfg pars).Inv) ∧ QuietReset standardChip

/-- R41, R145, R382: from a state that meets the invariant no step of an engine or a transceiver reads a
latch that holds no value; only a host that asks for an outcome before an operation has left one does
(R370). R41, U27: such a read is a fault of the agent that reads (its name and its agents are log entry
18). -/
def Obligations.NoUnwrittenLatchIsRead : Prop :=
  (∀ (s s' : State) (t : Turn) (k : Nat) (d d' : Device) (m : FaultMark), s.Inv →
     stepTurn t s = .next s' → s.devs[k]? = some d → s'.devs[k]? = some d' → m ∈ d'.faults →
     m.reason = .unwrittenLatch → m ∈ d.faults ∨ (t = .host k .readOutcome ∧ m.agent = .host ∧
       d.role = .master ∧ d.stage = .idle ∧ d.eng.outcome = none)) ∧
  (∀ (s : State) (k : Nat) (d : Device), s.devs[k]? = some d → d.halted .engine = false →
     (d.eng.addr = none ∧ (d.stage = .wcAddrLoad ∨ d.stage = .rrAddrLoad) ∨
       d.eng.cmd = none ∧ d.stage = .wcDataLoad ∨ d.eng.byte = none ∧ d.stage = .rrFinish ∨
       d.eng.code = none ∧ (d.stage = .wcAbort ∨ d.stage = .rrAbort)) →
     stepTurn (.engine k) s = .next (s.after k .host (d.raise .unwrittenLatch .engine))) ∧
  (∀ (s : State) (k : Nat) (d : Device) (code : Status) (b : Byte), s.devs[k]? = some d →
     s.cfg.busMode = .openBus → d.halted .xcvr = false → d.ctrl.en = true → d.ctrl.int = false →
     d.ctrl.sto = false → d.pend = .byte →
     (d.txbyte = none ∧ d.phase.isAddr = true ∨
       d.ack = none ∧ (d.phase.isMr = true ∨ d.phase.isAddressed = true)) →
     stepTurn (.xcvr k code b) s = .next (s.after k .host (d.raise .unwrittenLatch .xcvr)))

/-- R166, R289: without direct accesses, a slave device stays armed (`EA`, `IE`, `EN`), its
general-call bit stays 0 and it never latches a NACK; every step from a state that meets `State.Inv`
(which every step keeps) keeps this. -/
def Obligations.SlaveStaysArmed : Prop :=
  ∀ (s s' : State) (t : Turn), s.standard → t.isDirect = false → s.Inv →
    (∀ d ∈ s.devs, d.SlaveInv standardOadr) → stepTurn t s = .next s' → ∀ d ∈ s'.devs, d.SlaveInv standardOadr

/-- R246, R247 "No control write of this operation is reserved or faults on a reachable path": a
transaction that is issued while nothing is in flight stands as `TransInv` says; every turn but a
direct access or a reset keeps that in a state that meets `State.Inv` (which every step keeps), adds
no fault mark, and reaches `Idle` only with an outcome. On the closed bus the master is device 0
(R310). -/
def Obligations.TransactionsNeverFault : Prop :=
  (∀ (s : State) (d : Device) (addr : Addr) (b : Byte), s.standard → s.masterIssues d → d.busy = false →
    d.pend ≠ .stopThenStart → (d.pend = .stop → s.cfg.overlap = .serialise) →
    ∃ d1 d2, exec (.writeCommand addr b) s = .next (s.setCur d1) ∧ d1.TransInv s.cfg ∧
      d1.stage.isWc = true ∧
      exec (.readResponse addr) s = .next (s.setCur d2) ∧ d2.TransInv s.cfg ∧ d2.stage.isRr = true) ∧
  ∀ (s s' : State) (t : Turn) (k : Nat) (d : Device), s.standard → t.isDirect = false →
    t.isReset = false →
    s.Inv → s.cfg.busMode = .openBus ∨ k = 0 → s.devs[k]? = some d → d.role = .master →
    d.stage.isWc = true ∨ d.stage.isRr = true → d.halted .engine = false → d.TransInv s.cfg →
    stepTurn t s = .next s' →
    ∃ d', s'.devs[k]? = some d' ∧ d'.role = .master ∧ d'.faults = d.faults ∧ d'.TransInv s'.cfg ∧
      ((d.stage.isWc = true ∧ d'.stage.isWc = true) ∨ (d.stage.isRr = true ∧ d'.stage.isRr = true) ∨
        (d'.stage = .idle ∧ d'.eng.outcome.isSome = true))

/-- R202, R259: a hold of a transaction or of `start`, `write_byte` or `read_byte` that is not over
(`INT = 0`) has an enabled step that ends it or runs the stop before the start: on the open bus a step
of the transceiver, on the closed bus a joint step unless a slave holds the clock (R313); so fairness
(R178, R320) can end every wait. The one exception is R205's: a byte step that left the bus. A hold
stands as `TransInv` (see `TransactionsNeverFault`) and `PrimitiveWaits` say; every turn but a direct
access keeps `PrimitiveWaits`. On the closed bus the master is device 0, at rest or the bus's owner. -/
def Obligations.WaitingEngineHasAnEnabledStep : Prop :=
  (∀ (s s' : State) (t : Turn) (k : Nat) (d : Device), s.standard → t.isDirect = false → s.Inv →
     s.devs[k]? = some d → d.PrimitiveWaits → stepTurn t s = .next s' →
     ∃ d', s'.devs[k]? = some d' ∧ d'.PrimitiveWaits) ∧
  ∀ (s : State) (k : Nat) (d : Device), s.Inv → s.devs[k]? = some d → d.TransInv s.cfg →
    d.PrimitiveWaits → d.ctrl.int = false →
    d.stage ∈ [.start2, .writeByte3, .readByte2, .wcStartWait, .wcAddrWait, .wcDataWait, .rrStartWait,
      .rrAddrWait, .rrReadWait] →
    let moves (t : Turn) : Prop := ∃ s' d', stepTurn t s = .next s' ∧ s'.devs[k]? = some d' ∧
      d'.stage = d.stage ∧
      (d'.ctrl.int = true ∨ (d.pend = .stopThenStart ∧ d'.pend = .start ∧ d'.ctrl.en = true))
    ((d.stage = .writeByte3 ∨ d.stage = .readByte2) ∧ d.pend = .none ∧ d.phase = .noInfo) ∨
    ((s.cfg.busMode = .openBus → ∃ code b, moves (.xcvr k code b)) ∧
      (s.cfg.busMode = .closedBus → k = 0 → d.phase = .noInfo ∨ d.phase.isOwner = true →
        (∀ j e, s.devs[j + 1]? = some e → e.ctrl.int = false) → moves .joint))

/-- R312: no device of a closed bus ever reports a bus error or a lost arbitration: every turn keeps
it. R322: on the closed bus, with no direct access, the master's operations end in `Success`,
`SuccessByte`, `NoAck(0x20)`, `NoAck(0x48)` or `NoAck(0x30)`: never `ArbLost` or `Unexpected`. The
invariant that shows it is kept by every turn from a state that meets `State.Inv`. -/
def Obligations.ClosedBusOutcomes : Prop :=
  (∀ (s s' : State) (t : Turn), s.cfg.busMode = .closedBus → stepTurn t s = .next s' →
     (∀ d ∈ s.devs, d.phase.code ∉ [0x00, 0x38, 0x68, 0x78, 0xB0]) →
     ∀ d ∈ s'.devs, d.phase.code ∉ [0x00, 0x38, 0x68, 0x78, 0xB0]) ∧
  (∀ (s s' : State) (t : Turn) (m : Device), s.standard → t.isDirect = false → s.cfg.busMode = .closedBus →
     s.Inv → s.devs[0]? = some m → m.ClosedTransInv →
     (∀ o, m.eng.outcome = some o → o.onClosedBus) → stepTurn t s = .next s' →
     ∃ m', s'.devs[0]? = some m' ∧ m'.ClosedTransInv ∧ ∀ o, m'.eng.outcome = some o → o.onClosedBus)

/-- R310: the closed bus keeps its one master and its slaves at their own addresses, whatever the agents
do but a direct access, if each slave's `configure_slave` names its own `SLAVE_ADDR`; a slave's host can
issue no operation but that one. After reset, for parameters as R310 asks, the system is such a bus. (A
configure for the other role is refused: log entry 30.) -/
def Obligations.ClosedBusKeepsItsOneMaster : Prop :=
  (∀ (s s' : State) (t : Turn), t.isDirect = false → t.configuresOwnAddress s → s.ClosedSystem →
     stepTurn t s = .next s' → s'.ClosedSystem) ∧
  (∀ (s : State) (k : Nat) (d : Device) (w : OpWord) (i : Instr), s.ClosedSystem →
     s.devs[k + 1]? = some d → d.halted .host = false → decodeOp w = .ok i →
     (∀ a, i ≠ .configureSlave a) →
     ∃ r, stepTurn (.issue (k + 1) .host w) s = .next (s.after (k + 1) .host
       { d with refused := true, lastRefusal := some r })) ∧
  ∀ (cfg : Config) (p : DevParams) (pars : List DevParams), cfg.busMode = .closedBus →
    ParamsOk (p :: pars) → (State.resetWith cfg (p :: pars)).ClosedSystem

/-- R318, R294, R295: on the closed bus a `read_response` that succeeds returns the `RESP` of a slave at
its address, under every interleaving of the agents in which no host writes `RESP`: a transaction that
starts stands as `ReadInv` says, every such turn keeps it and keeps every `RESP`, and the success
outcome then is that `RESP`; a `write_command` in between or a second read changes nothing. -/
def Obligations.ClosedBusReadsReturnTheSlavesResponse : Prop :=
  (∀ (s : State) (m : Device), m.stage = .idle → s.ReadInv m) ∧
  (∀ (s s' : State) (t : Turn) (m : Device) (ds : List Device), s.standard → t.isDirect = false →
     t.isReset = false → t.writesResp = false → t.isHandlerIssue = false → t.configuresOwnAddress s →
     s.Inv → s.ClosedSystem → s.devs = m :: ds → m.role = .master → (∀ d ∈ ds, d.role = .slave) →
     m.ClosedTransInv → s.ReadInv m → stepTurn t s = .next s' →
     s'.devs.map (·.resp) = s.devs.map (·.resp) ∧
     ∃ m' ds', s'.devs = m' :: ds' ∧ s'.ReadInv m' ∧ (∀ d ∈ ds', d.role = .slave)) ∧
  (∀ (s : State) (m : Device), s.standard → s.devs[0]? = some m → m.halted .engine = false →
     m.stage = .rrFinish → m.ctrl.int = true → s.ReadInv m →
     ∃ m' b, stepTurn (.engine 0) s = .next (s.after 0 .host m') ∧
       m'.eng.outcome = some (.successByte b) ∧ s.IsRespFor m b)
end

