-- ==== Sys2Proof/Laws/Decode.lean ====
section
/-! SUPPORT. The operand fields and the formats of R105, and the bits of a control word (R91) in any
layout: reading back what was placed, and rebuilding a word from what was read. -/

namespace Sys2Proof

/-- A mask's complement tells which bits are 0. -/
theorem getLsbD_of_mask (m w : OpWord) (h : w &&& ~~~m = 0) (i : Nat) (hi : i < 32)
    (hm : m.getLsbD i = false) : w.getLsbD i = false := by
  have := congrArg (fun z => z.getLsbD i) h
  simp only [BitVec.getLsbD_and, BitVec.getLsbD_not, hm, hi] at this
  simpa using this

/-- The bits of a word of a known opcode and format. -/
theorem getLsbD_of_format (w m : OpWord) (op : BitVec 4) (ho : w.extractLsb' 28 4 = op)
    (hm : w &&& ~~~m = 0) (i : Nat) (hi : i < 32) :
    w.getLsbD i = if 28 ≤ i then op.getLsbD (i - 28) else (m.getLsbD i && w.getLsbD i) := by
  split
  · rw [← ho, BitVec.getLsbD_extractLsb']
    simp [show i - 28 < 4 by omega, show 28 + (i - 28) = i by omega]
  · cases hh : m.getLsbD i
    · simp [getLsbD_of_mask m w hm i hi hh]
    · simp

section
variable (w : OpWord) (op : BitVec 4) (ho : w.extractLsb' 28 4 = op)
include ho

theorem rebuild_OPN (hm : w &&& ~~~maskOPN = 0) : opcodeBits op = w := by
  apply BitVec.eq_of_getLsbD_eq; intro i hi
  rw [getLsbD_of_format w _ op ho hm i hi]; clear hm ho
  interval_cases i <;> simp [maskOPN, opcodeBits]

theorem rebuild_OPB (hm : w &&& ~~~maskOPB = 0) : opcodeBits op ||| placeByte (fieldByte w) = w := by
  apply BitVec.eq_of_getLsbD_eq; intro i hi
  rw [getLsbD_of_format w _ op ho hm i hi]; clear hm ho
  interval_cases i <;> simp [maskOPB, opcodeBits, placeByte, fieldByte]

theorem rebuild_OPA (hm : w &&& ~~~maskOPA = 0) : opcodeBits op ||| placeA (fieldA w) = w := by
  apply BitVec.eq_of_getLsbD_eq; intro i hi
  rw [getLsbD_of_format w _ op ho hm i hi]; clear hm ho
  interval_cases i <;> simp [maskOPA, opcodeBits, placeA, fieldA]

theorem rebuild_OPR (hm : w &&& ~~~maskOPR = 0) : opcodeBits op ||| placeAddr (fieldAddr w) = w := by
  apply BitVec.eq_of_getLsbD_eq; intro i hi
  rw [getLsbD_of_format w _ op ho hm i hi]; clear hm ho
  interval_cases i <;> simp [maskOPR, opcodeBits, placeAddr, fieldAddr]

theorem rebuild_OPRB (hm : w &&& ~~~maskOPRB = 0) :
    opcodeBits op ||| placeAddr (fieldAddr w) ||| placeByte (fieldByte w) = w := by
  apply BitVec.eq_of_getLsbD_eq; intro i hi
  rw [getLsbD_of_format w _ op ho hm i hi]; clear hm ho
  interval_cases i <;> simp [maskOPRB, opcodeBits, placeAddr, fieldAddr, placeByte, fieldByte]

theorem rebuild_OPC (hm : w &&& ~~~maskOPC = 0) :
    opcodeBits op ||| placePresc (fieldPresc w) ||| placeScl (fieldScl w) = w := by
  apply BitVec.eq_of_getLsbD_eq; intro i hi
  rw [getLsbD_of_format w _ op ho hm i hi]; clear hm ho
  interval_cases i <;> simp [maskOPC, opcodeBits, placePresc, fieldPresc, placeScl, fieldScl]

end

/-- The opcode of a word built from an opcode and operands below bit 28. -/
theorem opcode_of_placed (op : BitVec 4) (x : OpWord) (h : x &&& 0xF0000000#32 = 0) :
    (opcodeBits op ||| x).extractLsb' 28 4 = op := by
  apply BitVec.eq_of_getLsbD_eq; intro i hi
  have hx : x.getLsbD (28 + i) = false := by
    have := congrArg (fun z => z.getLsbD (28 + i)) h
    simp only [BitVec.getLsbD_and] at this
    have h3 : (0xF0000000#32).getLsbD (28 + i) = true := by interval_cases i <;> rfl
    simpa [h3] using this
  interval_cases i <;> simp_all [opcodeBits]

/-! ### The bits of a control word -/

theorem getLsbD_bitAt (k j : Fin 8) (b : Bool) : (bitAt k b).getLsbD j = (b && decide (j = k)) := by
  revert k j b; decide

/-- A layout gives every bit a field. -/
theorem CtrlLayout.WellFormed.mem_bits {L : CtrlLayout} (hL : L.WellFormed) (j : Fin 8) :
    j ∈ L.bits := by
  have : L.bits.toFinset = Finset.univ :=
    Finset.eq_univ_of_card _ (by rw [List.toFinset_card_of_nodup hL]; rfl)
  rw [← List.mem_toFinset, this]
  exact Finset.mem_univ j

/-- Every bit of a control word reads back as it was placed. -/
structure ReadsBack (L : CtrlLayout) (v : Byte) (i e s p w n q : Bool) : Prop where
  int : ctrlI L v = i
  ea : ctrlE L v = e
  sta : ctrlS L v = s
  sto : ctrlP L v = p
  wc : ctrlW L v = w
  en : ctrlN L v = n
  rsv : ctrlR L v = false
  ie : ctrlQ L v = q

section
variable {L : CtrlLayout} (hL : L.WellFormed) (i e s p w n q : Bool)
include hL

theorem ctrlWord_readsBack : ReadsBack L (ctrlWord L i e s p w n q) i e s p w n q := by
  have h : L.bits.Pairwise fun a b => a ≠ b ∧ b ≠ a := List.Pairwise.imp (fun h => ⟨h, h.symm⟩) hL
  simp only [CtrlLayout.bits, List.pairwise_cons, List.mem_cons, forall_eq_or_imp] at h
  constructor <;>
    simp only [ctrlI, ctrlE, ctrlS, ctrlP, ctrlW, ctrlN, ctrlR, ctrlQ, ctrlWord, BitVec.getLsbD_or,
      getLsbD_bitAt] <;>
    simp [h]

@[simp] theorem ctrlI_ctrlWord : ctrlI L (ctrlWord L i e s p w n q) = i :=
  (ctrlWord_readsBack hL i e s p w n q).int
@[simp] theorem ctrlE_ctrlWord : ctrlE L (ctrlWord L i e s p w n q) = e :=
  (ctrlWord_readsBack hL i e s p w n q).ea
@[simp] theorem ctrlS_ctrlWord : ctrlS L (ctrlWord L i e s p w n q) = s :=
  (ctrlWord_readsBack hL i e s p w n q).sta
@[simp] theorem ctrlP_ctrlWord : ctrlP L (ctrlWord L i e s p w n q) = p :=
  (ctrlWord_readsBack hL i e s p w n q).sto
@[simp] theorem ctrlW_ctrlWord : ctrlW L (ctrlWord L i e s p w n q) = w :=
  (ctrlWord_readsBack hL i e s p w n q).wc
@[simp] theorem ctrlN_ctrlWord : ctrlN L (ctrlWord L i e s p w n q) = n :=
  (ctrlWord_readsBack hL i e s p w n q).en
@[simp] theorem ctrlR_ctrlWord : ctrlR L (ctrlWord L i e s p w n q) = false :=
  (ctrlWord_readsBack hL i e s p w n q).rsv
@[simp] theorem ctrlQ_ctrlWord : ctrlQ L (ctrlWord L i e s p w n q) = q :=
  (ctrlWord_readsBack hL i e s p w n q).ie

end

/-- Every control word with `r = 0` is the word of its own bits. -/
theorem ctrlWord_of_bits {L : CtrlLayout} (hL : L.WellFormed) (v : Byte) (h : ctrlR L v = false) :
    ctrlWord L (ctrlI L v) (ctrlE L v) (ctrlS L v) (ctrlP L v) (ctrlW L v) (ctrlN L v) (ctrlQ L v) =
      v := by
  have hr := ctrlWord_readsBack hL (ctrlI L v) (ctrlE L v) (ctrlS L v) (ctrlP L v) (ctrlW L v)
    (ctrlN L v) (ctrlQ L v)
  refine BitVec.eq_of_getLsbD_eq fun j hj => ?_
  have hm := hL.mem_bits ⟨j, hj⟩
  simp only [CtrlLayout.bits, List.mem_cons, List.not_mem_nil, or_false] at hm
  rcases hm with e | e | e | e | e | e | e | e <;> obtain rfl := congrArg Fin.val e
  exacts [hr.int, hr.ea, hr.sta, hr.sto, hr.wc, hr.en, hr.rsv.trans h.symm, hr.ie]

/-! ### A control word's class by its bits -/

section
variable {L : CtrlLayout} (hL : L.WellFormed)
include hL

theorem decodeCtrl_config (e p w n q : Bool) :
    decodeCtrl L (ctrlWord L false e false p w n q) = .ok (.ctrlConfig e p w n q) := by
  simp [decodeCtrl, hL]

theorem decodeCtrl_continue (e w q : Bool) :
    decodeCtrl L (ctrlWord L true e false false w true q) = .ok (.ctrlContinue e w q) := by
  simp [decodeCtrl, hL]

theorem decodeCtrl_start (e w q : Bool) :
    decodeCtrl L (ctrlWord L true e true false w true q) = .ok (.ctrlStart e w q) := by
  simp [decodeCtrl, hL]

theorem decodeCtrl_stop (e w q : Bool) :
    decodeCtrl L (ctrlWord L true e false true w true q) = .ok (.ctrlStop e w q) := by
  simp [decodeCtrl, hL]

end

/-- A control word that decodes is of one of the four classes. -/
theorem decodeCtrl_cases (L : CtrlLayout) (v : Byte) {i : Instr} (h : decodeCtrl L v = .ok i) :
    ctrlR L v = false ∧
    ((ctrlI L v = false ∧ ctrlS L v = false ∧
        i = .ctrlConfig (ctrlE L v) (ctrlP L v) (ctrlW L v) (ctrlN L v) (ctrlQ L v)) ∨
      (ctrlI L v = true ∧ ctrlN L v = true ∧
        ((ctrlS L v = false ∧ ctrlP L v = false ∧ i = .ctrlContinue (ctrlE L v) (ctrlW L v) (ctrlQ L v)) ∨
          (ctrlS L v = true ∧ ctrlP L v = false ∧ i = .ctrlStart (ctrlE L v) (ctrlW L v) (ctrlQ L v)) ∨
          (ctrlS L v = false ∧ ctrlP L v = true ∧ i = .ctrlStop (ctrlE L v) (ctrlW L v) (ctrlQ L v))))) := by
  unfold decodeCtrl at h
  split at h <;> cases h <;> simp_all

end Sys2Proof
end

