-- ==== Sys2Proof/Laws/State.lean ====
section
/-! SUPPORT. One lemma per field per named update of a device or of the system. -/

namespace Sys2Proof.Machine

variable (d : Device) (s : State)

@[simp] theorem Device.goto_par (x : Stage) : (d.goto x).par = d.par := rfl
@[simp] theorem Device.goto_ctrl (x : Stage) : (d.goto x).ctrl = d.ctrl := rfl
@[simp] theorem Device.goto_ps (x : Stage) : (d.goto x).ps = d.ps := rfl
@[simp] theorem Device.goto_data (x : Stage) : (d.goto x).data = d.data := rfl
@[simp] theorem Device.goto_oadr (x : Stage) : (d.goto x).oadr = d.oadr := rfl
@[simp] theorem Device.goto_br (x : Stage) : (d.goto x).br = d.br := rfl
@[simp] theorem Device.goto_phase (x : Stage) : (d.goto x).phase = d.phase := rfl
@[simp] theorem Device.goto_pend (x : Stage) : (d.goto x).pend = d.pend := rfl
@[simp] theorem Device.goto_txbyte (x : Stage) : (d.goto x).txbyte = d.txbyte := rfl
@[simp] theorem Device.goto_ack (x : Stage) : (d.goto x).ack = d.ack := rfl
@[simp] theorem Device.goto_role (x : Stage) : (d.goto x).role = d.role := rfl
@[simp] theorem Device.goto_stage (x : Stage) : (d.goto x).stage = x := rfl
@[simp] theorem Device.goto_eng (x : Stage) : (d.goto x).eng = d.eng := rfl
@[simp] theorem Device.goto_cell (x : Stage) : (d.goto x).cell = d.cell := rfl
@[simp] theorem Device.goto_resp (x : Stage) : (d.goto x).resp = d.resp := rfl
@[simp] theorem Device.goto_gie (x : Stage) : (d.goto x).gie = d.gie := rfl
@[simp] theorem Device.goto_faults (x : Stage) : (d.goto x).faults = d.faults := rfl
@[simp] theorem Device.goto_refused (x : Stage) : (d.goto x).refused = d.refused := rfl
@[simp] theorem Device.goto_lastRefusal (x : Stage) : (d.goto x).lastRefusal = d.lastRefusal := rfl
@[simp] theorem Device.goto_ret (x : Stage) : (d.goto x).ret = d.ret := rfl
@[simp] theorem Device.goto_fg (x : Stage) : (d.goto x).fg = d.fg := rfl
@[simp] theorem Device.goto_draws (x : Stage) : (d.goto x).draws = d.draws := rfl

@[simp] theorem Device.returning_par (x : Ret) : (d.returning x).par = d.par := rfl
@[simp] theorem Device.returning_ctrl (x : Ret) : (d.returning x).ctrl = d.ctrl := rfl
@[simp] theorem Device.returning_ps (x : Ret) : (d.returning x).ps = d.ps := rfl
@[simp] theorem Device.returning_data (x : Ret) : (d.returning x).data = d.data := rfl
@[simp] theorem Device.returning_oadr (x : Ret) : (d.returning x).oadr = d.oadr := rfl
@[simp] theorem Device.returning_br (x : Ret) : (d.returning x).br = d.br := rfl
@[simp] theorem Device.returning_phase (x : Ret) : (d.returning x).phase = d.phase := rfl
@[simp] theorem Device.returning_pend (x : Ret) : (d.returning x).pend = d.pend := rfl
@[simp] theorem Device.returning_txbyte (x : Ret) : (d.returning x).txbyte = d.txbyte := rfl
@[simp] theorem Device.returning_ack (x : Ret) : (d.returning x).ack = d.ack := rfl
@[simp] theorem Device.returning_role (x : Ret) : (d.returning x).role = d.role := rfl
@[simp] theorem Device.returning_stage (x : Ret) : (d.returning x).stage = d.stage := rfl
@[simp] theorem Device.returning_eng (x : Ret) : (d.returning x).eng = d.eng := rfl
@[simp] theorem Device.returning_cell (x : Ret) : (d.returning x).cell = d.cell := rfl
@[simp] theorem Device.returning_resp (x : Ret) : (d.returning x).resp = d.resp := rfl
@[simp] theorem Device.returning_gie (x : Ret) : (d.returning x).gie = d.gie := rfl
@[simp] theorem Device.returning_faults (x : Ret) : (d.returning x).faults = d.faults := rfl
@[simp] theorem Device.returning_refused (x : Ret) : (d.returning x).refused = d.refused := rfl
@[simp] theorem Device.returning_lastRefusal (x : Ret) : (d.returning x).lastRefusal = d.lastRefusal := rfl
@[simp] theorem Device.returning_ret (x : Ret) : (d.returning x).ret = x := rfl
@[simp] theorem Device.returning_fg (x : Ret) : (d.returning x).fg = d.fg := rfl
@[simp] theorem Device.returning_draws (x : Ret) : (d.returning x).draws = d.draws := rfl

@[simp] theorem Device.event_par (x : Status) : (d.event x).par = d.par := rfl
@[simp] theorem Device.event_ctrl (x : Status) : (d.event x).ctrl = { d.ctrl with int := true } := rfl
@[simp] theorem Device.event_ps (x : Status) : (d.event x).ps = d.ps := rfl
@[simp] theorem Device.event_data (x : Status) : (d.event x).data = d.data := rfl
@[simp] theorem Device.event_oadr (x : Status) : (d.event x).oadr = d.oadr := rfl
@[simp] theorem Device.event_br (x : Status) : (d.event x).br = d.br := rfl
@[simp] theorem Device.event_phase (x : Status) : (d.event x).phase = x := rfl
@[simp] theorem Device.event_pend (x : Status) : (d.event x).pend = .none := rfl
@[simp] theorem Device.event_txbyte (x : Status) : (d.event x).txbyte = d.txbyte := rfl
@[simp] theorem Device.event_ack (x : Status) : (d.event x).ack = d.ack := rfl
@[simp] theorem Device.event_role (x : Status) : (d.event x).role = d.role := rfl
@[simp] theorem Device.event_stage (x : Status) : (d.event x).stage = d.stage := rfl
@[simp] theorem Device.event_eng (x : Status) : (d.event x).eng = d.eng := rfl
@[simp] theorem Device.event_cell (x : Status) : (d.event x).cell = d.cell := rfl
@[simp] theorem Device.event_resp (x : Status) : (d.event x).resp = d.resp := rfl
@[simp] theorem Device.event_gie (x : Status) : (d.event x).gie = d.gie := rfl
@[simp] theorem Device.event_faults (x : Status) : (d.event x).faults = d.faults := rfl
@[simp] theorem Device.event_refused (x : Status) : (d.event x).refused = d.refused := rfl
@[simp] theorem Device.event_lastRefusal (x : Status) : (d.event x).lastRefusal = d.lastRefusal := rfl
@[simp] theorem Device.event_ret (x : Status) : (d.event x).ret = d.ret := rfl
@[simp] theorem Device.event_fg (x : Status) : (d.event x).fg = d.fg := rfl
@[simp] theorem Device.event_draws (x : Status) : (d.event x).draws = d.draws := rfl

@[simp] theorem Device.unaddressed_par : (d.unaddressed).par = d.par := rfl
@[simp] theorem Device.unaddressed_ctrl : (d.unaddressed).ctrl = d.ctrl := rfl
@[simp] theorem Device.unaddressed_ps : (d.unaddressed).ps = d.ps := rfl
@[simp] theorem Device.unaddressed_data : (d.unaddressed).data = d.data := rfl
@[simp] theorem Device.unaddressed_oadr : (d.unaddressed).oadr = d.oadr := rfl
@[simp] theorem Device.unaddressed_br : (d.unaddressed).br = d.br := rfl
@[simp] theorem Device.unaddressed_phase : (d.unaddressed).phase = .noInfo := rfl
@[simp] theorem Device.unaddressed_pend : (d.unaddressed).pend = .none := rfl
@[simp] theorem Device.unaddressed_txbyte : (d.unaddressed).txbyte = d.txbyte := rfl
@[simp] theorem Device.unaddressed_ack : (d.unaddressed).ack = d.ack := rfl
@[simp] theorem Device.unaddressed_role : (d.unaddressed).role = d.role := rfl
@[simp] theorem Device.unaddressed_stage : (d.unaddressed).stage = d.stage := rfl
@[simp] theorem Device.unaddressed_eng : (d.unaddressed).eng = d.eng := rfl
@[simp] theorem Device.unaddressed_cell : (d.unaddressed).cell = d.cell := rfl
@[simp] theorem Device.unaddressed_resp : (d.unaddressed).resp = d.resp := rfl
@[simp] theorem Device.unaddressed_gie : (d.unaddressed).gie = d.gie := rfl
@[simp] theorem Device.unaddressed_faults : (d.unaddressed).faults = d.faults := rfl
@[simp] theorem Device.unaddressed_refused : (d.unaddressed).refused = d.refused := rfl
@[simp] theorem Device.unaddressed_lastRefusal : (d.unaddressed).lastRefusal = d.lastRefusal := rfl
@[simp] theorem Device.unaddressed_ret : (d.unaddressed).ret = d.ret := rfl
@[simp] theorem Device.unaddressed_fg : (d.unaddressed).fg = d.fg := rfl
@[simp] theorem Device.unaddressed_draws : (d.unaddressed).draws = d.draws := rfl

@[simp] theorem Device.setInt_par (x : Bool) : (d.setInt x).par = d.par := rfl
@[simp] theorem Device.setInt_ctrl (x : Bool) : (d.setInt x).ctrl = { d.ctrl with int := x } := rfl
@[simp] theorem Device.setInt_ps (x : Bool) : (d.setInt x).ps = d.ps := rfl
@[simp] theorem Device.setInt_data (x : Bool) : (d.setInt x).data = d.data := rfl
@[simp] theorem Device.setInt_oadr (x : Bool) : (d.setInt x).oadr = d.oadr := rfl
@[simp] theorem Device.setInt_br (x : Bool) : (d.setInt x).br = d.br := rfl
@[simp] theorem Device.setInt_phase (x : Bool) : (d.setInt x).phase = d.phase := rfl
@[simp] theorem Device.setInt_pend (x : Bool) : (d.setInt x).pend = d.pend := rfl
@[simp] theorem Device.setInt_txbyte (x : Bool) : (d.setInt x).txbyte = d.txbyte := rfl
@[simp] theorem Device.setInt_ack (x : Bool) : (d.setInt x).ack = d.ack := rfl
@[simp] theorem Device.setInt_role (x : Bool) : (d.setInt x).role = d.role := rfl
@[simp] theorem Device.setInt_stage (x : Bool) : (d.setInt x).stage = d.stage := rfl
@[simp] theorem Device.setInt_eng (x : Bool) : (d.setInt x).eng = d.eng := rfl
@[simp] theorem Device.setInt_cell (x : Bool) : (d.setInt x).cell = d.cell := rfl
@[simp] theorem Device.setInt_resp (x : Bool) : (d.setInt x).resp = d.resp := rfl
@[simp] theorem Device.setInt_gie (x : Bool) : (d.setInt x).gie = d.gie := rfl
@[simp] theorem Device.setInt_faults (x : Bool) : (d.setInt x).faults = d.faults := rfl
@[simp] theorem Device.setInt_refused (x : Bool) : (d.setInt x).refused = d.refused := rfl
@[simp] theorem Device.setInt_lastRefusal (x : Bool) : (d.setInt x).lastRefusal = d.lastRefusal := rfl
@[simp] theorem Device.setInt_ret (x : Bool) : (d.setInt x).ret = d.ret := rfl
@[simp] theorem Device.setInt_fg (x : Bool) : (d.setInt x).fg = d.fg := rfl
@[simp] theorem Device.setInt_draws (x : Bool) : (d.setInt x).draws = d.draws := rfl

@[simp] theorem Device.setSto_par (x : Bool) : (d.setSto x).par = d.par := rfl
@[simp] theorem Device.setSto_ctrl (x : Bool) : (d.setSto x).ctrl = { d.ctrl with sto := x } := rfl
@[simp] theorem Device.setSto_ps (x : Bool) : (d.setSto x).ps = d.ps := rfl
@[simp] theorem Device.setSto_data (x : Bool) : (d.setSto x).data = d.data := rfl
@[simp] theorem Device.setSto_oadr (x : Bool) : (d.setSto x).oadr = d.oadr := rfl
@[simp] theorem Device.setSto_br (x : Bool) : (d.setSto x).br = d.br := rfl
@[simp] theorem Device.setSto_phase (x : Bool) : (d.setSto x).phase = d.phase := rfl
@[simp] theorem Device.setSto_pend (x : Bool) : (d.setSto x).pend = d.pend := rfl
@[simp] theorem Device.setSto_txbyte (x : Bool) : (d.setSto x).txbyte = d.txbyte := rfl
@[simp] theorem Device.setSto_ack (x : Bool) : (d.setSto x).ack = d.ack := rfl
@[simp] theorem Device.setSto_role (x : Bool) : (d.setSto x).role = d.role := rfl
@[simp] theorem Device.setSto_stage (x : Bool) : (d.setSto x).stage = d.stage := rfl
@[simp] theorem Device.setSto_eng (x : Bool) : (d.setSto x).eng = d.eng := rfl
@[simp] theorem Device.setSto_cell (x : Bool) : (d.setSto x).cell = d.cell := rfl
@[simp] theorem Device.setSto_resp (x : Bool) : (d.setSto x).resp = d.resp := rfl
@[simp] theorem Device.setSto_gie (x : Bool) : (d.setSto x).gie = d.gie := rfl
@[simp] theorem Device.setSto_faults (x : Bool) : (d.setSto x).faults = d.faults := rfl
@[simp] theorem Device.setSto_refused (x : Bool) : (d.setSto x).refused = d.refused := rfl
@[simp] theorem Device.setSto_lastRefusal (x : Bool) : (d.setSto x).lastRefusal = d.lastRefusal := rfl
@[simp] theorem Device.setSto_ret (x : Bool) : (d.setSto x).ret = d.ret := rfl
@[simp] theorem Device.setSto_fg (x : Bool) : (d.setSto x).fg = d.fg := rfl
@[simp] theorem Device.setSto_draws (x : Bool) : (d.setSto x).draws = d.draws := rfl

@[simp] theorem Device.setPend_par (x : Pend) : (d.setPend x).par = d.par := rfl
@[simp] theorem Device.setPend_ctrl (x : Pend) : (d.setPend x).ctrl = d.ctrl := rfl
@[simp] theorem Device.setPend_ps (x : Pend) : (d.setPend x).ps = d.ps := rfl
@[simp] theorem Device.setPend_data (x : Pend) : (d.setPend x).data = d.data := rfl
@[simp] theorem Device.setPend_oadr (x : Pend) : (d.setPend x).oadr = d.oadr := rfl
@[simp] theorem Device.setPend_br (x : Pend) : (d.setPend x).br = d.br := rfl
@[simp] theorem Device.setPend_phase (x : Pend) : (d.setPend x).phase = d.phase := rfl
@[simp] theorem Device.setPend_pend (x : Pend) : (d.setPend x).pend = x := rfl
@[simp] theorem Device.setPend_txbyte (x : Pend) : (d.setPend x).txbyte = d.txbyte := rfl
@[simp] theorem Device.setPend_ack (x : Pend) : (d.setPend x).ack = d.ack := rfl
@[simp] theorem Device.setPend_role (x : Pend) : (d.setPend x).role = d.role := rfl
@[simp] theorem Device.setPend_stage (x : Pend) : (d.setPend x).stage = d.stage := rfl
@[simp] theorem Device.setPend_eng (x : Pend) : (d.setPend x).eng = d.eng := rfl
@[simp] theorem Device.setPend_cell (x : Pend) : (d.setPend x).cell = d.cell := rfl
@[simp] theorem Device.setPend_resp (x : Pend) : (d.setPend x).resp = d.resp := rfl
@[simp] theorem Device.setPend_gie (x : Pend) : (d.setPend x).gie = d.gie := rfl
@[simp] theorem Device.setPend_faults (x : Pend) : (d.setPend x).faults = d.faults := rfl
@[simp] theorem Device.setPend_refused (x : Pend) : (d.setPend x).refused = d.refused := rfl
@[simp] theorem Device.setPend_lastRefusal (x : Pend) : (d.setPend x).lastRefusal = d.lastRefusal := rfl
@[simp] theorem Device.setPend_ret (x : Pend) : (d.setPend x).ret = d.ret := rfl
@[simp] theorem Device.setPend_fg (x : Pend) : (d.setPend x).fg = d.fg := rfl
@[simp] theorem Device.setPend_draws (x : Pend) : (d.setPend x).draws = d.draws := rfl

@[simp] theorem Device.refuse_par (x : RefuseReason) : (d.refuse x).par = d.par := rfl
@[simp] theorem Device.refuse_ctrl (x : RefuseReason) : (d.refuse x).ctrl = d.ctrl := rfl
@[simp] theorem Device.refuse_ps (x : RefuseReason) : (d.refuse x).ps = d.ps := rfl
@[simp] theorem Device.refuse_data (x : RefuseReason) : (d.refuse x).data = d.data := rfl
@[simp] theorem Device.refuse_oadr (x : RefuseReason) : (d.refuse x).oadr = d.oadr := rfl
@[simp] theorem Device.refuse_br (x : RefuseReason) : (d.refuse x).br = d.br := rfl
@[simp] theorem Device.refuse_phase (x : RefuseReason) : (d.refuse x).phase = d.phase := rfl
@[simp] theorem Device.refuse_pend (x : RefuseReason) : (d.refuse x).pend = d.pend := rfl
@[simp] theorem Device.refuse_txbyte (x : RefuseReason) : (d.refuse x).txbyte = d.txbyte := rfl
@[simp] theorem Device.refuse_ack (x : RefuseReason) : (d.refuse x).ack = d.ack := rfl
@[simp] theorem Device.refuse_role (x : RefuseReason) : (d.refuse x).role = d.role := rfl
@[simp] theorem Device.refuse_stage (x : RefuseReason) : (d.refuse x).stage = d.stage := rfl
@[simp] theorem Device.refuse_eng (x : RefuseReason) : (d.refuse x).eng = d.eng := rfl
@[simp] theorem Device.refuse_cell (x : RefuseReason) : (d.refuse x).cell = d.cell := rfl
@[simp] theorem Device.refuse_resp (x : RefuseReason) : (d.refuse x).resp = d.resp := rfl
@[simp] theorem Device.refuse_gie (x : RefuseReason) : (d.refuse x).gie = d.gie := rfl
@[simp] theorem Device.refuse_faults (x : RefuseReason) : (d.refuse x).faults = d.faults := rfl
@[simp] theorem Device.refuse_refused (x : RefuseReason) : (d.refuse x).refused = true := rfl
@[simp] theorem Device.refuse_lastRefusal (x : RefuseReason) : (d.refuse x).lastRefusal = some x := rfl
@[simp] theorem Device.refuse_ret (x : RefuseReason) : (d.refuse x).ret = d.ret := rfl
@[simp] theorem Device.refuse_fg (x : RefuseReason) : (d.refuse x).fg = d.fg := rfl
@[simp] theorem Device.refuse_draws (x : RefuseReason) : (d.refuse x).draws = d.draws := rfl

@[simp] theorem Device.raise_par (r : FaultReason) (a : Agent) : (d.raise r a).par = d.par := rfl
@[simp] theorem Device.raise_ctrl (r : FaultReason) (a : Agent) : (d.raise r a).ctrl = d.ctrl := rfl
@[simp] theorem Device.raise_ps (r : FaultReason) (a : Agent) : (d.raise r a).ps = d.ps := rfl
@[simp] theorem Device.raise_data (r : FaultReason) (a : Agent) : (d.raise r a).data = d.data := rfl
@[simp] theorem Device.raise_oadr (r : FaultReason) (a : Agent) : (d.raise r a).oadr = d.oadr := rfl
@[simp] theorem Device.raise_br (r : FaultReason) (a : Agent) : (d.raise r a).br = d.br := rfl
@[simp] theorem Device.raise_phase (r : FaultReason) (a : Agent) : (d.raise r a).phase = d.phase := rfl
@[simp] theorem Device.raise_pend (r : FaultReason) (a : Agent) : (d.raise r a).pend = d.pend := rfl
@[simp] theorem Device.raise_txbyte (r : FaultReason) (a : Agent) : (d.raise r a).txbyte = d.txbyte := rfl
@[simp] theorem Device.raise_ack (r : FaultReason) (a : Agent) : (d.raise r a).ack = d.ack := rfl
@[simp] theorem Device.raise_role (r : FaultReason) (a : Agent) : (d.raise r a).role = d.role := rfl
@[simp] theorem Device.raise_stage (r : FaultReason) (a : Agent) : (d.raise r a).stage = d.stage := rfl
@[simp] theorem Device.raise_eng (r : FaultReason) (a : Agent) : (d.raise r a).eng = d.eng := rfl
@[simp] theorem Device.raise_cell (r : FaultReason) (a : Agent) : (d.raise r a).cell = d.cell := rfl
@[simp] theorem Device.raise_resp (r : FaultReason) (a : Agent) : (d.raise r a).resp = d.resp := rfl
@[simp] theorem Device.raise_gie (r : FaultReason) (a : Agent) : (d.raise r a).gie = d.gie := rfl
@[simp] theorem Device.raise_refused (r : FaultReason) (a : Agent) : (d.raise r a).refused = d.refused := rfl
@[simp] theorem Device.raise_lastRefusal (r : FaultReason) (a : Agent) : (d.raise r a).lastRefusal = d.lastRefusal := rfl
@[simp] theorem Device.raise_ret (r : FaultReason) (a : Agent) : (d.raise r a).ret = d.ret := rfl
@[simp] theorem Device.raise_fg (r : FaultReason) (a : Agent) : (d.raise r a).fg = d.fg := rfl
@[simp] theorem Device.raise_draws (r : FaultReason) (a : Agent) : (d.raise r a).draws = d.draws := rfl

@[simp] theorem Device.writeFields_par (L : CtrlLayout) (v : Byte) : (d.writeFields L v).par = d.par := rfl
@[simp] theorem Device.writeFields_ctrl (L : CtrlLayout) (v : Byte) : (d.writeFields L v).ctrl = { d.ctrl with ea := ctrlE L v, sta := ctrlS L v, sto := ctrlP L v, en := ctrlN L v, ie := ctrlQ L v } := rfl
@[simp] theorem Device.writeFields_ps (L : CtrlLayout) (v : Byte) : (d.writeFields L v).ps = d.ps := rfl
@[simp] theorem Device.writeFields_data (L : CtrlLayout) (v : Byte) : (d.writeFields L v).data = d.data := rfl
@[simp] theorem Device.writeFields_oadr (L : CtrlLayout) (v : Byte) : (d.writeFields L v).oadr = d.oadr := rfl
@[simp] theorem Device.writeFields_br (L : CtrlLayout) (v : Byte) : (d.writeFields L v).br = d.br := rfl
@[simp] theorem Device.writeFields_phase (L : CtrlLayout) (v : Byte) : (d.writeFields L v).phase = d.phase := rfl
@[simp] theorem Device.writeFields_pend (L : CtrlLayout) (v : Byte) : (d.writeFields L v).pend = d.pend := rfl
@[simp] theorem Device.writeFields_txbyte (L : CtrlLayout) (v : Byte) : (d.writeFields L v).txbyte = d.txbyte := rfl
@[simp] theorem Device.writeFields_ack (L : CtrlLayout) (v : Byte) : (d.writeFields L v).ack = d.ack := rfl
@[simp] theorem Device.writeFields_role (L : CtrlLayout) (v : Byte) : (d.writeFields L v).role = d.role := rfl
@[simp] theorem Device.writeFields_stage (L : CtrlLayout) (v : Byte) : (d.writeFields L v).stage = d.stage := rfl
@[simp] theorem Device.writeFields_eng (L : CtrlLayout) (v : Byte) : (d.writeFields L v).eng = d.eng := rfl
@[simp] theorem Device.writeFields_cell (L : CtrlLayout) (v : Byte) : (d.writeFields L v).cell = d.cell := rfl
@[simp] theorem Device.writeFields_resp (L : CtrlLayout) (v : Byte) : (d.writeFields L v).resp = d.resp := rfl
@[simp] theorem Device.writeFields_gie (L : CtrlLayout) (v : Byte) : (d.writeFields L v).gie = d.gie := rfl
@[simp] theorem Device.writeFields_faults (L : CtrlLayout) (v : Byte) : (d.writeFields L v).faults = d.faults := rfl
@[simp] theorem Device.writeFields_refused (L : CtrlLayout) (v : Byte) : (d.writeFields L v).refused = d.refused := rfl
@[simp] theorem Device.writeFields_lastRefusal (L : CtrlLayout) (v : Byte) : (d.writeFields L v).lastRefusal = d.lastRefusal := rfl
@[simp] theorem Device.writeFields_ret (L : CtrlLayout) (v : Byte) : (d.writeFields L v).ret = d.ret := rfl
@[simp] theorem Device.writeFields_fg (L : CtrlLayout) (v : Byte) : (d.writeFields L v).fg = d.fg := rfl
@[simp] theorem Device.writeFields_draws (L : CtrlLayout) (v : Byte) : (d.writeFields L v).draws = d.draws := rfl

@[simp] theorem State.focus_cfg (k : Nat) (who : Issuer) : (s.focus k who).cfg = s.cfg := rfl
@[simp] theorem State.focus_devs (k : Nat) (who : Issuer) : (s.focus k who).devs = s.devs := rfl
@[simp] theorem State.focus_target (k : Nat) (who : Issuer) : (s.focus k who).target = s.target := rfl
@[simp] theorem State.focus_cur (k : Nat) (who : Issuer) : (s.focus k who).cur = k := rfl
@[simp] theorem State.focus_issuer (k : Nat) (who : Issuer) : (s.focus k who).issuer = who := rfl
@[simp] theorem State.focus_inputs (k : Nat) (who : Issuer) : (s.focus k who).inputs = s.inputs := rfl
@[simp] theorem State.setCur_cfg : (s.setCur d).cfg = s.cfg := rfl
@[simp] theorem State.setCur_devs : (s.setCur d).devs = s.devs.set s.cur d := rfl
@[simp] theorem State.setCur_target : (s.setCur d).target = s.target := rfl
@[simp] theorem State.setCur_cur : (s.setCur d).cur = s.cur := rfl
@[simp] theorem State.setCur_issuer : (s.setCur d).issuer = s.issuer := rfl
@[simp] theorem State.setCur_inputs : (s.setCur d).inputs = s.inputs := rfl
@[simp] theorem State.after_cfg (k : Nat) (who : Issuer) : (s.after k who d).cfg = s.cfg := rfl
@[simp] theorem State.after_devs (k : Nat) (who : Issuer) : (s.after k who d).devs = s.devs.set k d := rfl
@[simp] theorem State.after_target (k : Nat) (who : Issuer) : (s.after k who d).target = s.target := rfl
@[simp] theorem State.after_cur (k : Nat) (who : Issuer) : (s.after k who d).cur = k := rfl
@[simp] theorem State.after_issuer (k : Nat) (who : Issuer) : (s.after k who d).issuer = who := rfl
@[simp] theorem State.after_inputs (k : Nat) (who : Issuer) : (s.after k who d).inputs = s.inputs := rfl

/-- A turn's result is the device set in the focused system. -/
theorem State.focus_setCur (k : Nat) (who : Issuer) : (s.focus k who).setCur d = s.after k who d := rfl

end Sys2Proof.Machine
end

