-- ==== Sys2Proof/Laws/Ops.lean ====
section
/-! SUPPORT. What the shared operations do: the control words and the control write (R141–R148), data
accesses, faults, and running an effect on the moving device. -/

namespace Sys2Proof

namespace Machine

/-! ### The spec's own values (R3, R94, R97) -/

@[simp] theorem standardChip_status : standardChip.status = standardStatus := rfl
@[simp] theorem standardChip_words : standardChip.words = standardWords := rfl
@[simp] theorem standardStatus_codeOf (p : Status) : standardStatus.codeOf p = p.code := rfl

@[simp] theorem standardChip_ctrl : standardChip.ctrl = standardCtrl := rfl
@[simp] theorem standardChip_stat : standardChip.stat = standardStat := rfl
@[simp] theorem standardChip_oadr : standardChip.oadr = standardOadr := rfl
@[simp] theorem standardChip_offsets : standardChip.offsets = standardOffsets := rfl

theorem standardStatus_wellFormed : standardStatus.WellFormed standardStat :=
  ⟨fun p => by cases p <;> decide, fun p q => by cases p <;> cases q <;> decide⟩

/-- The spec's own layouts and codes fit together. -/
theorem standardChip_wellFormed : standardChip.WellFormed :=
  ⟨by decide, by decide, by decide, by decide, standardStatus_wellFormed⟩

theorem standardCtrl_wellFormed : standardCtrl.WellFormed := standardChip_wellFormed.1

/-! ### Layouts -/

/-- Writing back what a read of `CTRL` gives changes no field (R91, R175). -/
theorem Ctrl.ofByte_toByte {L : CtrlLayout} (hL : L.WellFormed) (c : Ctrl) :
    Ctrl.ofByte L (c.toByte L) = c := by
  simp [Ctrl.ofByte, Ctrl.toByte, hL]

@[simp] theorem psOf_placePs (L : StatLayout) (ps : BitVec 2) : L.psOf (L.placePs ps) = ps := by
  obtain ⟨m, k⟩ := L
  simp only [StatLayout.psOf, StatLayout.placePs]
  revert k ps; decide

/-- A well-formed layout's register offsets (R61). -/
theorem regAt_of_wellFormed {R : RegOffsets} (h : R.WellFormed) :
    R.regAt R.br = some .br ∧ R.regAt R.stat = some .stat ∧ R.regAt R.oadr = some .oadr ∧
    R.regAt R.data = some .data ∧ R.regAt R.ctrl = some .ctrl := by
  have h' : [R.br, R.stat, R.oadr, R.data, R.ctrl].Pairwise fun a b => a ≠ b ∧ b ≠ a :=
    List.Pairwise.imp (fun h => ⟨h, h.symm⟩) h
  simp only [List.pairwise_cons, List.mem_cons, forall_eq_or_imp] at h'
  simp [RegOffsets.regAt, h']

/-- The own address and `GCE` of `OADR8(addr)` (R101). -/
theorem ownAddr_oadr8 {O : OadrLayout} (h : O.WellFormed) (d : Device) (a : Addr)
    (ho : d.oadr = oadr8 O a) : d.ownAddr O = a ∧ d.gce O = false := by
  obtain ⟨lo, g⟩ := O
  simp only [Device.ownAddr, Device.gce, ho, oadr8]
  clear ho
  revert lo g a; decide

/-- A code of a well-formed table names its status (R97). -/
theorem nameOf_codeOf {L : StatLayout} {T : StatusTable} (h : T.WellFormed L) (p : Status) :
    T.nameOf (T.codeOf p) = some p := by
  unfold StatusTable.nameOf
  cases hf : Status.all.find? fun q => T.codeOf q == T.codeOf p with
  | none =>
    have := List.find?_eq_none.mp hf p (by cases p <;> decide)
    simp at this
  | some q => rw [h.2 q p (by simpa using List.find?_some hf)]

@[simp] theorem bitrate_standard (cfg : Config) (h : cfg.chip = standardChip) (scl presc : Int) :
    bitrate cfg scl presc = (cfg.fCpu.tdiv scl - 16).tdiv (2 * presc) := by
  simp [bitrate, h, standardChip, standardRate, RateExpr.eval]

theorem configureMaster_word :
    standardWords.configureMaster = ctrlWord standardCtrl false false false false false true false := rfl
theorem configureSlave_word :
    standardWords.configureSlave = ctrlWord standardCtrl false true false false false true true := rfl
theorem start_word : standardWords.start = ctrlWord standardCtrl true false true false false true false := rfl
theorem stop_word : standardWords.stop = ctrlWord standardCtrl true false false true false true false := rfl
theorem writeByte_word :
    standardWords.writeByte = ctrlWord standardCtrl true false false false false true false := rfl
theorem wordReadByte_eq (a : Bool) :
    wordReadByte standardWords a = ctrlWord standardCtrl true a false false false true false := by cases a <;> rfl
theorem armForReply_word :
    standardWords.armForReply = ctrlWord standardCtrl true true false false false true true := rfl

theorem wordClearEvent_eq (c : Ctrl) :
    wordClearEvent standardWords (c.toByte standardCtrl) = ctrlWord standardCtrl true c.ea false false false c.en c.ie := by
  obtain ⟨i, e, s, p, w, n, q⟩ := c
  revert i e s p w n q; decide

theorem wordRecover_eq (c : Ctrl) :
    wordRecover standardWords (c.toByte standardCtrl) = ctrlWord standardCtrl true c.ea false true false c.en c.ie := by
  obtain ⟨i, e, s, p, w, n, q⟩ := c
  revert i e s p w n q; decide

theorem wordSetAck_eq (c : Ctrl) (a : Bool) :
    wordSetAck standardWords (c.toByte standardCtrl) a = ctrlWord standardCtrl false a false false false c.en c.ie := by
  obtain ⟨i, e, s, p, w, n, q⟩ := c
  revert a i e s p w n q; decide

/-! ### The control write, class by class -/

section
variable (cfg : Config) (d : Device)

/-- `CONFIG` (R142, R93). -/
theorem ctrlWrite_config (hL : cfg.chip.ctrl.WellFormed) (e p w n q : Bool) :
    ctrlWrite cfg (ctrlWord cfg.chip.ctrl false e false p w n q) d =
      if p = d.ctrl.sto then
        .done (configCmd d.ctrl.en (d.writeFields cfg.chip.ctrl (ctrlWord cfg.chip.ctrl false e false p w n q)))
      else .refuse .reservedControlWord := by
  by_cases h : p = d.ctrl.sto <;> simp [ctrlWrite, reservedWord, h, hL]

/-- A command word while the device is busy (R141). -/
theorem ctrlWrite_busy (v : Byte) (hr : reservedWord cfg.chip.ctrl v d.ctrl.sto = false) (hI : ctrlI cfg.chip.ctrl v = true)
    (hb : d.busy = true) : ctrlWrite cfg v d = .fault .commandWhileBusy d := by
  simp [ctrlWrite, hr, hI, hb]

/-- `START` (R143). -/
theorem ctrlWrite_start (hL : cfg.chip.ctrl.WellFormed) (e w q : Bool) (hb : d.busy = false) :
    ctrlWrite cfg (ctrlWord cfg.chip.ctrl true e true false w true q) d =
      startCmd cfg d ((d.writeFields cfg.chip.ctrl (ctrlWord cfg.chip.ctrl true e true false w true q)).setInt false) := by
  simp [ctrlWrite, reservedWord, hb, hL]

/-- `STOP` (R146, R147). -/
theorem ctrlWrite_stop (hL : cfg.chip.ctrl.WellFormed) (e w q : Bool) (hb : d.busy = false) :
    ctrlWrite cfg (ctrlWord cfg.chip.ctrl true e false true w true q) d =
      .done (stopCmd ((d.writeFields cfg.chip.ctrl (ctrlWord cfg.chip.ctrl true e false true w true q)).setInt false)) := by
  simp [ctrlWrite, reservedWord, hb, hL]

/-- `CONTINUE` (R144). -/
theorem ctrlWrite_continue (hL : cfg.chip.ctrl.WellFormed) (e w q : Bool) (hb : d.busy = false) :
    ctrlWrite cfg (ctrlWord cfg.chip.ctrl true e false false w true q) d =
      continueCmd d ((d.writeFields cfg.chip.ctrl (ctrlWord cfg.chip.ctrl true e false false w true q)).setInt false) := by
  simp [ctrlWrite, reservedWord, hb, hL]

/-- With an event pending no device is busy. -/
theorem Device.busy_of_int (h : d.ctrl.int = true) : d.busy = false := by simp [Device.busy, h]

/-- What an effect of a control write that began at `d` can be. -/
def Eff.fromWrite (d : Device) : Eff → Prop
  | .done d' => d' = { d with
      ctrl := { d'.ctrl with wc := d.ctrl.wc }, phase := d'.phase, pend := d'.pend
      txbyte := d'.txbyte, ack := d'.ack }
  | .fault r d' => d' = d ∧ r ≠ .unwrittenLatch
  | .refuse r => r = .reservedControlWord

theorem continueCmd_fromWrite (w : Device)
    (hw : w = { d with ctrl := { w.ctrl with wc := d.ctrl.wc } }) : (continueCmd d w).fromWrite d := by
  unfold continueCmd
  split_ifs
  all_goals first
    | rfl
    | exact ⟨rfl, by decide⟩
    | (rw [hw]; rfl)

theorem startCmd_fromWrite (w : Device)
    (hw : w = { d with ctrl := { w.ctrl with wc := d.ctrl.wc } }) : (startCmd cfg d w).fromWrite d := by
  unfold startCmd
  split
  · split
    · rw [hw]; rfl
    · exact ⟨rfl, by decide⟩
  · rw [hw]; rfl

/-- All a control write can do (R141, R345, R346): it changes `CTRL` but for `WC`, the phase, the pending
command and the two latches; or it faults with the device unchanged; or the word is reserved. -/
theorem ctrlWrite_fromWrite (v : Byte) : (ctrlWrite cfg v d).fromWrite d := by
  unfold ctrlWrite
  dsimp only
  split
  · rfl
  · split
    · exact ⟨rfl, by decide⟩
    · split
      · unfold configCmd
        split_ifs <;> rfl
      · split
        · exact startCmd_fromWrite cfg d _ rfl
        · split
          · unfold stopCmd
            split_ifs <;> rfl
          · exact continueCmd_fromWrite d _ rfl

theorem ctrlWrite_frame {v : Byte} {d' : Device} (h : ctrlWrite cfg v d = .done d') :
    d' = { d with
      ctrl := { d'.ctrl with wc := d.ctrl.wc }, phase := d'.phase, pend := d'.pend
      txbyte := d'.txbyte, ack := d'.ack } := by
  have := ctrlWrite_fromWrite cfg d v
  rwa [h] at this

/-- A control write that faults reports the device unchanged (R345). -/
theorem ctrlWrite_fault {v : Byte} {r : FaultReason} {d' : Device}
    (h : ctrlWrite cfg v d = .fault r d') : d' = d ∧ r ≠ .unwrittenLatch := by
  have := ctrlWrite_fromWrite cfg d v
  rwa [h] at this

/-- A control write is refused as `ReservedControlWord` or not at all. -/
theorem ctrlWrite_refuse {v : Byte} {r : RefuseReason} (h : ctrlWrite cfg v d = .refuse r) :
    r = .reservedControlWord := by
  have := ctrlWrite_fromWrite cfg d v
  rwa [h] at this

end

/-! ### Faults -/

theorem Device.raise_eq (d : Device) (r : FaultReason) (a : Agent) :
    { d.raise r a with faults := d.faults } = d := rfl

theorem Device.mem_raise (d : Device) (r : FaultReason) (a : Agent) (x : FaultMark) :
    x ∈ (d.raise r a).faults ↔ x = { reason := r, agent := a, stage := d.stage } ∨ x ∈ d.faults := by
  simp only [Device.raise]
  split
  · rename_i h
    constructor
    · exact .inr
    · rintro (rfl | h')
      · simpa using h
      · exact h'
  · simp

theorem Device.raise_nodup (d : Device) (r : FaultReason) (a : Agent) (h : d.faults.Nodup) :
    (d.raise r a).faults.Nodup := by
  simp only [Device.raise]
  split
  · exact h
  · rename_i h'
    exact List.nodup_cons.mpr ⟨by simpa using h', h⟩

/-! ### Running an effect on the moving device -/

section
variable {s : State} {d : Device} {f : Device → Device}

theorem onCur_some (f : Device → Device) (h : s.devs[s.cur]? = some d) :
    onCur s f = .next (s.setCur (f d)) := by simp [onCur, h]

theorem onCur_next {t : State} (h : onCur s f = .next t) :
    ∃ d, s.devs[s.cur]? = some d ∧ t = s.setCur (f d) := by
  unfold onCur at h
  split at h
  · cases h
  · rename_i d hd
    cases h
    exact ⟨d, hd, rfl⟩

end

@[simp] theorem Eff.settle_done (a : Agent) (d0 d : Device) : (Eff.done d).settle a d0 = d := rfl
@[simp] theorem Eff.settle_fault (a : Agent) (d0 d : Device) (r : FaultReason) :
    (Eff.fault r d).settle a d0 = d.raise r a := rfl
@[simp] theorem Eff.settle_refuse (a : Agent) (d0 : Device) (r : RefuseReason) :
    (Eff.refuse r).settle a d0 = d0.refuse r := rfl
@[simp] theorem Eff.bind_done (d : Device) (f : Device → Eff) : (Eff.done d).bind f = f d := rfl
@[simp] theorem Eff.bind_fault (r : FaultReason) (d : Device) (f : Device → Eff) :
    (Eff.fault r d).bind f = .fault r d := rfl
@[simp] theorem Eff.bind_refuse (r : RefuseReason) (f : Device → Eff) :
    (Eff.refuse r).bind f = .refuse r := rfl
@[simp] theorem Eff.map_done (d : Device) (f : Device → Device) : (Eff.done d).map f = .done (f d) := rfl
@[simp] theorem Eff.map_fault (r : FaultReason) (d : Device) (f : Device → Device) :
    (Eff.fault r d).map f = .fault r d := rfl
@[simp] theorem Eff.map_refuse (r : RefuseReason) (f : Device → Device) :
    (Eff.refuse r).map f = .refuse r := rfl

/-! ### Data accesses -/

/-- A read of `DATA` with an event pending (R174) has no side effect (R65). -/
theorem readData_of_int (d : Device) (h : d.ctrl.int = true) : readData d = (d.data, d) := by
  simp [readData, h]

/-- A read of `DATA` while `INT = 0` (R174). -/
theorem readData_of_busy (d : Device) (h : d.ctrl.int = false) :
    readData d = (Config.busyData d.par.id d.draws, { d with draws := d.draws + 1 }) := by
  simp [readData, h]

/-- A write of `DATA` with an event pending (R172). -/
theorem writeData_of_int (v : Byte) (d : Device) (h : d.ctrl.int = true) :
    writeData v d = { d with data := v, ctrl := { d.ctrl with wc := false } } := by
  simp [writeData, h]

/-- A write of `DATA` while `INT = 0` (R173). -/
theorem writeData_of_busy (v : Byte) (d : Device) (h : d.ctrl.int = false) :
    writeData v d = { d with ctrl := { d.ctrl with wc := true } } := by
  simp [writeData, h]

/-- `PS` does not reach the status field (R29, R95). -/
theorem placePs_and_mask {L : StatLayout} (h : L.WellFormed) (ps : BitVec 2) :
    L.placePs ps &&& L.mask = 0 := by
  have e : ∀ (k : Fin 7) (ps : BitVec 2), (ps.zeroExtend 8 : Byte) <<< k.val =
      ps.zeroExtend 8 <<< k.val &&& (0b11#2).zeroExtend 8 <<< k.val := by decide
  rw [show L.placePs ps = L.placePs ps &&& L.placePs 0b11 from e L.psLo ps, BitVec.and_assoc, h]
  exact BitVec.and_zero

/-- The status code is the phase's while an event is pending, else 0xF8 (R32, R95). -/
theorem Device.statusCode_eq {C : Chip} (hC : C.WellFormed) (d : Device) :
    d.statusCode C = C.status.codeOf (if d.ctrl.int then d.phase else .noInfo) := by
  have hm : ∀ c m : Byte, c &&& ~~~m = 0 → c &&& m = c := fun c m h =>
    BitVec.eq_of_getLsbD_eq fun i hi => by
      have := congrArg (fun z => z.getLsbD i) h
      simp only [BitVec.getLsbD_and, BitVec.getLsbD_not, hi, decide_true, Bool.true_and] at this ⊢
      cases hc : c.getLsbD i <;> simp_all
  rw [Device.statusCode, Device.stat, BitVec.and_comm, BitVec.and_or_distrib_left,
    BitVec.and_comm C.stat.mask (C.stat.placePs _), placePs_and_mask hC.2.1,
    BitVec.and_comm, hm _ _ (hC.2.2.2.2.1 _)]
  exact BitVec.or_zero

/-- Is a code one of the named ones: with R97's numbers, by name. -/
theorem isOneOf_code (p : Status) (names : List Status) :
    standardStatus.isOneOf p.code names = names.contains p := by
  simp only [StatusTable.isOneOf, List.contains_eq_mem, List.mem_map]
  congr 1
  exact propext ⟨fun ⟨q, hq, h⟩ => standardStatus_wellFormed.2 q p h ▸ hq, fun h => ⟨p, h, rfl⟩⟩

end Machine

end Sys2Proof
end

