-- ==== Sys2Proof/Laws/Turns.lean ====
section
/-! SUPPORT. What a step does when the next turn is known: one lemma per kind of turn. -/

namespace Sys2Proof.Machine

section
variable {s : State} {k : Nat} {d d' : Device}

/-- A step runs its next turn. -/
theorem stepTurn_eq (t : Turn) (s : State) : stepTurn t s = runTurn t s := rfl

theorem runTurns_cons_next {t : Turn} {ts : List Turn} {s s' : State}
    (h : stepTurn t s = .next s') : runTurns (t :: ts) s = runTurns ts s' := by
  simp [runTurns, h]

@[simp] theorem runTurns_nil (s : State) : runTurns [] s = .next s := rfl

theorem whenCur_true {cond : Device → Bool} {run : State → Result} (h : s.devs[s.cur]? = some d)
    (hc : cond d = true) : whenCur cond run s = run s := by simp [whenCur, h, hc]

theorem whenCur_false {cond : Device → Bool} {run : State → Result} (h : s.devs[s.cur]? = some d)
    (hc : cond d = false) : whenCur cond run s = .next s := by simp [whenCur, h, hc]

/-- A word issued by a host that is not halted is decoded and run. -/
theorem stepTurn_issue_host (h : s.devs[k]? = some d) (hh : d.halted .host = false) (w : OpWord) :
    stepTurn (.issue k .host w) s = runDecoded (decodeOp w) (s.focus k .host) := by
  show whenCur _ _ (s.focus k .host) = _
  exact whenCur_true h (by simp [mayIssue, hh])

/-- A word issued by a handler whose interrupt is taken is decoded and run. -/
theorem stepTurn_issue_handler (h : s.devs[k]? = some d) (hh : d.handlerEnabled = true) (w : OpWord) :
    stepTurn (.issue k .handler w) s = runDecoded (decodeOp w) (s.focus k .handler) := by
  show whenCur _ _ (s.focus k .handler) = _
  exact whenCur_true h (by simp [mayIssue, hh])

/-- An engine turn. -/
theorem stepTurn_engine (h : s.devs[k]? = some d) :
    stepTurn (.engine k) s = .next (s.after k .host (engineTurn s.cfg d)) :=
  onCur_some (s := s.focus k .host) _ h

/-- An engine turn that is done. -/
theorem stepTurn_engine_done (h : s.devs[k]? = some d) (hh : d.halted .engine = false)
    (hr : runStage s.cfg d = .done d') : stepTurn (.engine k) s = .next (s.after k .host d') := by
  rw [stepTurn_engine h]; simp [engineTurn, hh, hr]

/-- A transceiver turn on the open bus. -/
theorem stepTurn_xcvr (hb : s.cfg.busMode = .openBus) (h : s.devs[k]? = some d) (code : Status)
    (b : Byte) :
    stepTurn (.xcvr k code b) s = .next (s.after k .host (xcvrStep s.cfg.chip.oadr code b d)) := by
  show xcvrTurn code b (s.focus k .host) = _
  simp only [xcvrTurn, State.focus_cfg, hb]
  exact onCur_some (s := s.focus k .host) _ h

/-- A host action of a host that is not halted. -/
theorem stepTurn_host (h : s.devs[k]? = some d) (hh : d.halted .host = false) (a : HostAct) :
    stepTurn (.host k a) s = .next (s.after k .host (hostAct a d)) := by
  show hostTurn a (s.focus k .host) = _
  unfold hostTurn
  rw [whenCur_true (s := s.focus k .host) h (by simp [mayIssue, hh])]
  exact onCur_some (s := s.focus k .host) _ h

/-- A direct read. -/
theorem stepTurn_read (h : s.devs[k]? = some d) (hh : d.halted .host = false) (off : BitVec 3) :
    stepTurn (.direct k (.read off)) s =
      .next (s.after k .host (accessRegister (s.cfg.chip.offsets.regAt off)
        (readRegister s.cfg.chip (s.cfg.chip.offsets.regAt off)) d)) := by
  show directTurn (.read off) (s.focus k .host) = _
  unfold directTurn
  rw [whenCur_true (s := s.focus k .host) h (by simp [mayIssue, hh])]
  exact onCur_some (s := s.focus k .host) _ h

/-- A direct write of a register other than `CTRL`. -/
theorem stepTurn_write (h : s.devs[k]? = some d) (hh : d.halted .host = false) {off : BitVec 3}
    (ho : s.cfg.chip.offsets.regAt off ≠ some .ctrl) (v : Byte) :
    stepTurn (.direct k (.write off v)) s =
      .next (s.after k .host (accessRegister (s.cfg.chip.offsets.regAt off)
        (writeRegister s.cfg.chip.stat (s.cfg.chip.offsets.regAt off) v) d)) := by
  show directTurn (.write off v) (s.focus k .host) = _
  unfold directTurn
  rw [whenCur_true (s := s.focus k .host) h (by simp [mayIssue, hh])]
  simp only [runAccess, RegAccess.offset, State.focus_cfg, ho, if_false]
  exact onCur_some (s := s.focus k .host) _ h

/-- A direct write of `CTRL` is decoded and run. -/
theorem stepTurn_writeCtrl (h : s.devs[k]? = some d) (hh : d.halted .host = false) {off : BitVec 3}
    (ho : s.cfg.chip.offsets.regAt off = some .ctrl) (v : Byte) :
    stepTurn (.direct k (.write off v)) s = writeCtrl v (s.focus k .host) := by
  show directTurn (.write off v) (s.focus k .host) = _
  unfold directTurn
  rw [whenCur_true (s := s.focus k .host) h (by simp [mayIssue, hh])]
  simp only [runAccess, RegAccess.offset, State.focus_cfg, ho, if_true]

/-- A direct access to a device that is no slave. -/
theorem accessRegister_of_role (hr : d.role ≠ .slave) (r : Option Reg) (f : Device → Device) :
    accessRegister r f d = f d := by simp [accessRegister, touchesSlave, hr]

/-- A direct access of a slave's host to a register (R71, R215.3). -/
theorem accessRegister_of_slave (hr : d.role = .slave) (r : Reg) (f : Device → Device) :
    accessRegister (some r) f d = d.refuse .hostTouchesSlaveTransceiver := by
  simp [accessRegister, touchesSlave, hr]

/-- A direct access at an offset without a register (R61). -/
theorem accessRegister_of_badOffset (f : Device → Device) : accessRegister none f d = f d := by
  simp [accessRegister]

/-- A handler turn, its interrupt taken. -/
theorem stepTurn_handler (h : s.devs[k]? = some d) (hh : d.handlerEnabled = true) :
    stepTurn (.handler k) s =
      exec (decodeEvt s.cfg.chip.status (d.statusCode s.cfg.chip)) (s.focus k .handler) := by
  show handlerTurn (s.focus k .handler) = _
  have h' : (s.focus k .handler).devs[(s.focus k .handler).cur]? = some d := h
  simp only [handlerTurn, h', hh, if_true, State.focus_cfg]

/-- A handler turn with no interrupt to take. -/
theorem stepTurn_handler_off (h : s.devs[k]? = some d) (hh : d.handlerEnabled = false) :
    stepTurn (.handler k) s = .next (s.focus k .handler) := by
  show handlerTurn (s.focus k .handler) = _
  have h' : (s.focus k .handler).devs[(s.focus k .handler).cur]? = some d := h
  simp only [handlerTurn, h', hh, Bool.false_eq_true, if_false]

/-- A joint turn on the closed bus. -/
theorem stepTurn_joint (hb : s.cfg.busMode = .closedBus) : stepTurn .joint s = jointStep s := by
  simp [stepTurn_eq, runTurn, jointTurn, hb]

/-- A reset turn. -/
theorem stepTurn_reset (h : s.devs[k]? = some d) :
    stepTurn (.reset k) s = .next (s.after k .host (.afterReset s.cfg.chip d.par d.draws)) :=
  onCur_some (s := s.focus k .host) _ h

/-- Replacing a device by itself. -/
theorem State.after_self (h : s.devs[k]? = some d) (who : Issuer) :
    s.after k who d = s.focus k who := by
  obtain ⟨hk, rfl⟩ := List.getElem?_eq_some_iff.mp h
  simp [State.after, State.focus]

theorem State.after_get (h : s.devs[k]? = some d) (who : Issuer) (d' : Device) :
    (s.after k who d').devs[k]? = some d' := by
  obtain ⟨hk, -⟩ := List.getElem?_eq_some_iff.mp h
  simp [State.after, hk]

theorem State.after_after (who who' : Issuer) (d d' : Device) :
    (s.after k who d).after k who' d' = s.after k who' d' := by
  simp [State.after]

/-! ### Running on from a device already placed -/

/-- An engine turn in a run. -/
theorem runTurns_engine {e : Device} {who : Issuer} (h : s.devs[k]? = some e)
    (hh : d.halted .engine = false) (hr : runStage s.cfg d = .done d') (ts : List Turn) :
    runTurns (.engine k :: ts) (s.after k who d) = runTurns ts (s.after k .host d') := by
  have := stepTurn_engine_done (s := s.after k who d) (State.after_get h who d) hh hr
  rw [runTurns_cons_next this, State.after_after]

/-- A transceiver turn in a run on the open bus. -/
theorem runTurns_xcvr {e : Device} {who : Issuer} (h : s.devs[k]? = some e)
    (hb : s.cfg.busMode = .openBus) (code : Status) (b : Byte) (ts : List Turn) :
    runTurns (.xcvr k code b :: ts) (s.after k who d) =
      runTurns ts (s.after k .host (xcvrStep s.cfg.chip.oadr code b d)) := by
  have := stepTurn_xcvr (s := s.after k who d) hb (State.after_get h who d) code b
  rw [runTurns_cons_next this, State.after_after, State.after_cfg]

/-- A host action in a run. -/
theorem runTurns_host {e : Device} {who : Issuer} (h : s.devs[k]? = some e)
    (hh : d.halted .host = false) (a : HostAct) (ts : List Turn) :
    runTurns (.host k a :: ts) (s.after k who d) = runTurns ts (s.after k .host (hostAct a d)) := by
  have := stepTurn_host (s := s.after k who d) (State.after_get h who d) hh a
  rw [runTurns_cons_next this, State.after_after]

end

/-- When the handler may run (R280, R350, R345). -/
theorem Device.handlerEnabled_iff (d : Device) :
    d.handlerEnabled = true ↔ d.role = .slave ∧ d.ctrl.int = true ∧ d.ctrl.ie = true ∧
      d.ctrl.en = true ∧ d.gie = true ∧ d.halted .handler = false := by
  simp [Device.handlerEnabled, Device.irq, and_assoc]

end Sys2Proof.Machine
end

