-- ==== Sys2Proof/Laws/Moves.lean ====
section
/-! SUPPORT. Said once: everything one step can do to one device (`turn_moves`). Invariants are proved by
cases over `Move`. -/

namespace Sys2Proof.Machine

/-- Line 1 of an operation that a host issues. -/
inductive IsLine1 : Instr → OpKind → Stage → Prop
  | configureMaster (p : Byte) (k : BitVec 16) :
      IsLine1 (.configureMaster p k) .configureMaster (.configureMaster1 p k)
  | configureSlave (a : Addr) : IsLine1 (.configureSlave a) .configureSlave (.configureSlave1 a)
  | start : IsLine1 .start .start .start1
  | stop : IsLine1 .stop .stop .stop1
  | writeByte (b : Byte) : IsLine1 (.writeByte b) .writeByte (.writeByte1 b)
  | readByte (a : Bool) : IsLine1 (.readByte a) .readByte (.readByte1 a)
  | armForReply : IsLine1 .armForReply .armForReply .armForReply1
  | loadData (b : Byte) : IsLine1 (.loadData b) .loadData (.loadData1 b)
  | readData : IsLine1 .readData .readData .readData1
  | setAck (a : Bool) : IsLine1 (.setAck a) .setAck (.setAck1 a)
  | clearEvent : IsLine1 .clearEvent .clearEvent .clearEvent1
  | recover : IsLine1 .recover .recover .recover1
  | readStatus : IsLine1 .readStatus .readStatus .readStatus1
  | writeCommand (a : Addr) (b : Byte) : IsLine1 (.writeCommand a b) .writeCommand (.wcIssue a b)
  | readResponse (a : Addr) : IsLine1 (.readResponse a) .readResponse (.rrIssue a)

/-- The line of a primitive that a handler issues. -/
inductive IsLine (cfg : Config) : Instr → OpKind → (Device → Eff) → Prop
  | stop : IsLine cfg .stop .stop (stopLine cfg)
  | armForReply : IsLine cfg .armForReply .armForReply (armForReplyLine cfg)
  | loadData (b : Byte) : IsLine cfg (.loadData b) .loadData (loadDataLine b)
  | readData : IsLine cfg .readData .readData readDataLine
  | clearEvent : IsLine cfg .clearEvent .clearEvent (clearEventLine cfg)
  | recover : IsLine cfg .recover .recover (recoverLine cfg)
  | readStatus : IsLine cfg .readStatus .readStatus (readStatusLine cfg.chip)

/-- What an operation does to device `k`. -/
inductive OpMove (cfg : Config) (k : Nat) (who : Issuer) (i : Instr) (d : Device) : Device → Prop
  | refused (r : RefuseReason) : OpMove cfg k who i d (d.refuse r)
  | line1 (op : OpKind) (st : Stage) (hst : IsLine1 i op st) (hw : who = .host)
      (hc : contextCheck (roleOnBus cfg k) .host op d = none) :
      OpMove cfg k who i d (issueLine1 cfg st d)
  | handlerLine (op : OpKind) (line : Device → Eff) (hl : IsLine cfg i op line)
      (hw : who = .handler) (hc : contextCheck (roleOnBus cfg k) .handler op d = none) :
      OpMove cfg k who i d ((line d).settle .handler d)

theorem multiLine_next {i : Instr} {op : OpKind} {st : Stage} {s t : State} (hst : IsLine1 i op st)
    (hm : ∀ d, contextCheck (roleOnBus s.cfg s.cur) .handler op d ≠ none)
    (h : multiLine op st s = .next t) :
    ∃ d d', s.devs[s.cur]? = some d ∧ t = s.setCur d' ∧ OpMove s.cfg s.cur s.issuer i d d' := by
  obtain ⟨d, hd, rfl⟩ := onCur_next h
  refine ⟨d, _, hd, rfl, ?_⟩
  split
  · exact .refused _
  · rename_i hc
    cases hi : s.issuer <;> rw [hi] at hc
    · exact .line1 op st hst rfl hc
    · exact absurd hc (hm d)

theorem singleLine_next {i : Instr} {op : OpKind} {st : Stage} {line : Device → Eff} {s t : State}
    (hst : IsLine1 i op st) (hl : IsLine s.cfg i op line) (h : singleLine op st line s = .next t) :
    ∃ d d', s.devs[s.cur]? = some d ∧ t = s.setCur d' ∧ OpMove s.cfg s.cur s.issuer i d d' := by
  obtain ⟨d, hd, rfl⟩ := onCur_next h
  refine ⟨d, _, hd, rfl, ?_⟩
  split
  · exact .refused _
  · rename_i hc
    cases hi : s.issuer <;> rw [hi] at hc
    · exact .line1 op st hst rfl hc
    · exact .handlerLine op line hl rfl hc

/-- The operations a handler may not issue. -/
theorem contextCheck_handler_ne {op : OpKind} (h : handlerOps.contains op = false) (r : Option Role)
    (d : Device) : contextCheck r .handler op d ≠ none := by
  unfold contextCheck
  split <;> simp_all

/-- Everything an operation does. -/
theorem exec_op_next {i : Instr} {op : OpKind} {s t : State} (hi : i.opKind = some op)
    (h : exec i s = .next t) :
    ∃ d d', s.devs[s.cur]? = some d ∧ t = s.setCur d' ∧ OpMove s.cfg s.cur s.issuer i d d' := by
  cases i with
  | configureMaster p k =>
    exact multiLine_next (.configureMaster p k) (contextCheck_handler_ne (by decide) _) h
  | configureSlave a => exact multiLine_next (.configureSlave a) (contextCheck_handler_ne (by decide) _) h
  | start => exact multiLine_next .start (contextCheck_handler_ne (by decide) _) h
  | stop => exact singleLine_next .stop .stop h
  | writeByte b => exact multiLine_next (.writeByte b) (contextCheck_handler_ne (by decide) _) h
  | readByte a => exact multiLine_next (.readByte a) (contextCheck_handler_ne (by decide) _) h
  | armForReply => exact singleLine_next .armForReply .armForReply h
  | loadData b => exact singleLine_next (.loadData b) (.loadData b) h
  | readData => exact singleLine_next .readData .readData h
  | setAck a => exact multiLine_next (.setAck a) (contextCheck_handler_ne (by decide) _) h
  | clearEvent => exact singleLine_next .clearEvent .clearEvent h
  | recover => exact singleLine_next .recover .recover h
  | readStatus => exact singleLine_next .readStatus .readStatus h
  | writeCommand a b => exact multiLine_next (.writeCommand a b) (contextCheck_handler_ne (by decide) _) h
  | readResponse a => exact multiLine_next (.readResponse a) (contextCheck_handler_ne (by decide) _) h
  | ctrlConfig | ctrlContinue | ctrlStart | ctrlStop | evtAddrWOwn | evtAddrWGeneral | evtDataRxOwn
  | evtDataRxGeneral | evtDataReqAddress | evtDataReqContinuation | evtOther => cases hi

/-- An operation word decodes to an operation. -/
theorem decodeOp_opKind {w : OpWord} {i : Instr} (h : decodeOp w = .ok i) : ∃ op, i.opKind = some op := by
  unfold decodeOp ifFormat at h
  split at h <;> first | (split at h <;> cases h; exact ⟨_, rfl⟩) | cases h

/-- The handler's four actions. -/
inductive IsAction (cfg : Config) : (Device → Eff) → Prop
  | addrW : IsAction cfg (addrWAction cfg)
  | dataRx : IsAction cfg (dataRxAction cfg)
  | dataReq : IsAction cfg (dataReqAction cfg)
  | other : IsAction cfg (otherAction cfg)

/-- What a joint step does to the master (R314–R319). -/
inductive JointMaster (d : Device) : Device → Prop
  | start (hp : d.pend = .start) (ho : d.phase.isOwner = false) : JointMaster d (d.event .start)
  | repStart (hp : d.pend = .start) (ho : d.phase.isOwner = true) : JointMaster d (d.event .repStart)
  | address (t : Byte) (acked : Bool) (hp : d.pend = .byte) (ha : d.phase.isAddr = true)
      (ht : d.txbyte = some t) :
      JointMaster d (d.event (if t.getLsbD 0 then (if acked then .mrSlaAck else .mrSlaNack)
        else (if acked then .mtSlaAck else .mtSlaNack)))
  | transmit (acked : Bool) (hp : d.pend = .byte) (ha : d.phase.isMt = true) :
      JointMaster d (d.event (if acked then .mtDataAck else .mtDataNack))
  | receive (b : Byte) (a : Bool) (hp : d.pend = .byte) (hm : d.phase.isMr = true)
      (ha : d.ack = some a) :
      JointMaster d (({ d with data := b }).event (if a then .mrDataAck else .mrDataNack))
  | stop (hp : d.pend.isStop = true) : JointMaster d (executeStop d)

/-- What a joint step does to a slave. -/
inductive JointSlave (O : OadrLayout) (d : Device) : Device → Prop
  | ended (ha : d.phase.isAddressed = true) : JointSlave O d (d.event .srStop)
  | addressed (a : Addr) (read : Bool) (h : answers O a d = true) :
      JointSlave O d (d.event (if read then .stSlaAck else .srSlaAck))
  | received (t : Byte) (a : Bool) (hs : d.phase.isSrOwn = true) (hp : d.pend = .byte)
      (ha : d.ack = some a) :
      JointSlave O d (({ d with data := t }).event (if a then .srDataAck else .srDataNack))
  | sentLast (hs : d.phase.isSt = true) (hp : d.pend = .byte) : JointSlave O d (d.event .stDataNack)
  | sent (a : Bool) (hs : d.phase.isSt = true) (hp : d.pend = .byte) (ha : d.ack = some a) :
      JointSlave O d (d.event (if a then .stDataAck else .stLastData))

/-- Everything one turn can do to device `k` of the system `s`. -/
inductive Move (s : State) (k : Nat) (d : Device) : Turn → Device → Prop
  | stay (t : Turn) : Move s k d t d
  | illegal (w : OpWord) (who : Issuer) :
      Move s k d (.issue k who w) (d.refuse .illegalOperationWord)
  | issue (who : Issuer) (w : OpWord) (i : Instr) (d' : Device) (hm : mayIssue who d = true)
      (hi : decodeOp w = .ok i) (h : OpMove s.cfg k who i d d') : Move s k d (.issue k who w) d'
  | engine (hh : d.halted .engine = false) :
      Move s k d (.engine k) ((runStage s.cfg d).settle .engine d)
  | handler (action : Device → Eff) (ha : IsAction s.cfg action) (he : d.handlerEnabled = true) :
      Move s k d (.handler k) ((handlerInvocation action d).settle .handler d)
  | hostAct (a : HostAct) (hh : d.halted .host = false) : Move s k d (.host k a) (hostAct a d)
  | directRefused (acc : RegAccess) (r : RefuseReason) : Move s k d (.direct k acc) (d.refuse r)
  | directRead (off : BitVec 3) (hh : d.halted .host = false) :
      Move s k d (.direct k (.read off))
        (readRegister s.cfg.chip (s.cfg.chip.offsets.regAt off) d)
  | directWrite (off : BitVec 3) (v : Byte) (ho : s.cfg.chip.offsets.regAt off ≠ some .ctrl)
      (hh : d.halted .host = false) :
      Move s k d (.direct k (.write off v))
        (writeRegister s.cfg.chip.stat (s.cfg.chip.offsets.regAt off) v d)
  | directCtrl (off : BitVec 3) (v v' : Byte) (ho : s.cfg.chip.offsets.regAt off = some .ctrl)
      (hv : s.cfg.chip.ctrl.WellFormed → v' = v) (hr : d.role ≠ .slave) (hh : d.halted .host = false) :
      Move s k d (.direct k (.write off v)) ((ctrlWrite s.cfg v' d).settle .host d)
  | xcvr (code : Status) (b : Byte) (hb : s.cfg.busMode = .openBus) :
      Move s k d (.xcvr k code b) (xcvrStep s.cfg.chip.oadr code b d)
  | jointMaster (d' : Device) (hb : s.cfg.busMode = .closedBus) (hk : k = 0) (he : d.ctrl.en = true)
      (hi : d.ctrl.int = false) (h : JointMaster d d') : Move s k d .joint d'
  | jointSlave (d' : Device) (hb : s.cfg.busMode = .closedBus) (hk : k ≠ 0) (hi : d.ctrl.int = false)
      (h : JointSlave s.cfg.chip.oadr d d') : Move s k d .joint d'
  | jointFault (ds : List Device) (hb : s.cfg.busMode = .closedBus) (hk : k = 0)
      (hs : s.devs = d :: ds)
      (hm : jointMove s.cfg.chip.oadr { master := d, slaves := ds, target := s.target } = none) :
      Move s k d .joint (d.raise .unwrittenLatch .xcvr)
  | reset : Move s k d (.reset k) (.afterReset s.cfg.chip d.par d.draws)
  | resetAll : Move s k d .resetAll (.afterReset s.cfg.chip d.par d.draws)

/-! ### Every turn is made of moves -/

/-- The devices of a system after one of them was replaced. -/
theorem setCur_moves {s : State} {k : Nat} {who : Issuer} {t : Turn} {d d' : Device}
    (hd : s.devs[k]? = some d) (hm : Move s k d t d') (j : Nat) (e : Device)
    (he : s.devs[j]? = some e) :
    ∃ e', ((s.focus k who).setCur d').devs[j]? = some e' ∧ Move s j e t e' := by
  by_cases hj : k = j
  · subst hj
    obtain rfl : d = e := Option.some.inj (hd.symm.trans he)
    obtain ⟨hk, -⟩ := List.getElem?_eq_some_iff.mp hd
    exact ⟨d', by simp [hk], hm⟩
  · exact ⟨e, by simp [hj, he], .stay t⟩

/-- The conclusion of `turn_moves`. -/
def Moves (t : Turn) (s s' : State) : Prop :=
  s'.cfg = s.cfg ∧ s'.devs.length = s.devs.length ∧
  (s'.target = s.target ∨ s'.target = none ∨
    ∃ k, s'.target = some k ∧ 1 ≤ k ∧ k < s.devs.length) ∧
  ∀ j e, s.devs[j]? = some e → ∃ e', s'.devs[j]? = some e' ∧ Move s j e t e'

theorem moves_of_stay {t : Turn} {s s' : State} (hc : s'.cfg = s.cfg) (hd : s'.devs = s.devs)
    (ht : s'.target = s.target) : Moves t s s' :=
  ⟨hc, by rw [hd], .inl ht, fun j e he => ⟨e, by rw [hd]; exact he, .stay t⟩⟩

theorem moves_of_setCur {t : Turn} {s : State} {k : Nat} {who : Issuer} {d d' : Device}
    (hd : s.devs[k]? = some d) (hm : Move s k d t d') :
    Moves t s ((s.focus k who).setCur d') :=
  ⟨rfl, by simp, .inl rfl, fun j e he => setCur_moves hd hm j e he⟩

theorem whenCur_next {cond : Device → Bool} {run : State → Result} {s t : State}
    (h : whenCur cond run s = .next t) :
    ∃ d, s.devs[s.cur]? = some d ∧ ((cond d = true ∧ run s = .next t) ∨ t = s) := by
  unfold whenCur at h
  split at h
  · cases h
  · rename_i d hd
    split at h
    · exact ⟨d, hd, .inl ⟨by assumption, h⟩⟩
    · cases h; exact ⟨d, hd, .inr rfl⟩

theorem issueTurn_moves {k : Nat} {who : Issuer} {w : OpWord} {s s' : State}
    (h : issueTurn w (s.focus k who) = .next s') : Moves (.issue k who w) s s' := by
  obtain ⟨d, hd, ⟨hc, h⟩ | rfl⟩ := whenCur_next h
  · cases hw : decodeOp w with
    | ok i =>
      rw [hw] at h
      obtain ⟨op, hop⟩ := decodeOp_opKind hw
      obtain ⟨e, d', he, rfl, hm⟩ := exec_op_next hop h
      obtain rfl : d = e := Option.some.inj (hd.symm.trans he)
      exact moves_of_setCur hd (.issue who w i d' hc hw hm)
    | error r =>
      rw [hw] at h
      obtain ⟨e, he, rfl⟩ := onCur_next h
      obtain rfl : d = e := Option.some.inj (hd.symm.trans he)
      exact moves_of_setCur hd (.illegal w who)
  · exact moves_of_stay rfl rfl rfl

/-- A control word's instruction is a direct write of a control word: of the same one, if the layout
gives every field a bit of its own. -/
theorem exec_directWrite (v : Byte) {i : Instr} {s : State} (h : decodeCtrl s.cfg.chip.ctrl v = .ok i) :
    ∃ v', (s.cfg.chip.ctrl.WellFormed → v' = v) ∧ exec i s = directWrite v' s := by
  obtain ⟨hr, ⟨hi, hs, rfl⟩ | ⟨hi, hn, ⟨hs, hp, rfl⟩ | ⟨hs, hp, rfl⟩ | ⟨hs, hp, rfl⟩⟩⟩ :=
    decodeCtrl_cases _ _ h
  · exact ⟨_, fun hL => by simpa only [hi, hs] using ctrlWord_of_bits hL v hr, rfl⟩
  all_goals exact ⟨_, fun hL => by simpa only [hi, hs, hn, hp] using ctrlWord_of_bits hL v hr, rfl⟩

/-- A direct write of `CTRL` of a device that is no slave is the control write. -/
theorem writeCtrl_next {k : Nat} {v : Byte} {s s' : State}
    (h : writeCtrl v (s.focus k .host) = .next s') : ∃ d, s.devs[k]? = some d ∧
      ((∃ r, s' = (s.focus k .host).setCur (d.refuse r)) ∨
        (d.role ≠ .slave ∧ ∃ v', (s.cfg.chip.ctrl.WellFormed → v' = v) ∧
          s' = (s.focus k .host).setCur ((ctrlWrite s.cfg v' d).settle .host d))) := by
  unfold writeCtrl at h
  cases hv : decodeCtrl s.cfg.chip.ctrl v with
  | ok i =>
    obtain ⟨v', hv', hx⟩ := exec_directWrite v (s := s.focus k .host) hv
    rw [State.focus_cfg, hv] at h
    replace h : directWrite v' (s.focus k .host) = .next s' := hx ▸ h
    obtain ⟨d, hd, rfl⟩ := onCur_next h
    refine ⟨d, hd, ?_⟩
    split
    · exact .inl ⟨_, rfl⟩
    · rename_i hr
      exact .inr ⟨by simpa [touchesSlave] using hr, v', hv', rfl⟩
  | error r =>
    rw [State.focus_cfg, hv] at h
    obtain ⟨d, hd, rfl⟩ := onCur_next h
    refine ⟨d, hd, .inl ?_⟩
    unfold accessRegister
    split <;> exact ⟨_, rfl⟩

theorem accessRegister_moves {k : Nat} {acc : RegAccess} {s : State} {d : Device} (r : Option Reg)
    {f : Device → Device} (hd : s.devs[k]? = some d) (hm : Move s k d (.direct k acc) (f d)) :
    Moves (.direct k acc) s ((s.focus k .host).setCur (accessRegister r f d)) := by
  unfold accessRegister
  split
  · exact moves_of_setCur hd (.directRefused acc _)
  · exact moves_of_setCur hd hm

theorem directTurn_moves {k : Nat} {acc : RegAccess} {s s' : State}
    (h : directTurn acc (s.focus k .host) = .next s') : Moves (.direct k acc) s s' := by
  unfold directTurn at h
  obtain ⟨d, hd, ⟨hc, h1⟩ | rfl⟩ := whenCur_next h
  · clear h; rename' h1 => h
    have hh : d.halted .host = false := by simpa [mayIssue] using hc
    cases acc with
    | read off =>
      obtain ⟨e, he, rfl⟩ := onCur_next h
      obtain rfl : d = e := Option.some.inj (hd.symm.trans he)
      exact accessRegister_moves _ hd (.directRead off hh)
    | write off v =>
      by_cases ho : s.cfg.chip.offsets.regAt off = some .ctrl
      · simp only [runAccess, RegAccess.offset, State.focus_cfg, ho, if_true] at h
        obtain ⟨e, he, ⟨r, rfl⟩ | ⟨hr, v', hv', rfl⟩⟩ := writeCtrl_next h
        · exact moves_of_setCur he (.directRefused _ r)
        · obtain rfl : d = e := Option.some.inj (hd.symm.trans he)
          exact moves_of_setCur hd (.directCtrl off v v' ho hv' hr hh)
      · simp only [runAccess, RegAccess.offset, State.focus_cfg, ho, if_false] at h
        obtain ⟨e, he, rfl⟩ := onCur_next h
        obtain rfl : d = e := Option.some.inj (hd.symm.trans he)
        exact accessRegister_moves _ hd (.directWrite off v ho hh)
  · exact moves_of_stay rfl rfl rfl

/-- What the handler's key runs (R282). -/
theorem decodeEvt_action (T : StatusTable) (key : Byte) (s : State) :
    ∃ action, IsAction s.cfg action ∧ exec (decodeEvt T key) s = invokeHandler action s := by
  unfold decodeEvt
  split_ifs
  · exact ⟨_, .addrW, rfl⟩
  · exact ⟨_, .addrW, rfl⟩
  · exact ⟨_, .dataRx, rfl⟩
  · exact ⟨_, .dataRx, rfl⟩
  · exact ⟨_, .dataReq, rfl⟩
  · exact ⟨_, .dataReq, rfl⟩
  · exact ⟨_, .other, rfl⟩

theorem handlerTurn_moves {k : Nat} {s s' : State}
    (h : handlerTurn (s.focus k .handler) = .next s') : Moves (.handler k) s s' := by
  unfold handlerTurn at h
  split at h
  · cases h
  · rename_i d hd
    dsimp only at h
    split at h
    · rename_i he
      obtain ⟨action, ha, hex⟩ := decodeEvt_action s.cfg.chip.status (d.statusCode s.cfg.chip)
        (s.focus k .handler)
      rw [State.focus_cfg, hex] at h
      obtain ⟨e, hd', rfl⟩ := onCur_next h
      obtain rfl : d = e := Option.some.inj (hd.symm.trans hd')
      exact moves_of_setCur hd (.handler action ha he)
    · cases h
      exact moves_of_stay rfl rfl rfl

/-! ### Joint steps -/

/-- What a joint step does, as a change of the master, the slaves and the target. -/
structure JointMoves (O : OadrLayout) (m m' : BusMove) : Prop where
  master : JointMaster m.master m'.master
  length : m'.slaves.length = m.slaves.length
  target : m'.target = m.target ∨ m'.target = none ∨
    ∃ k, m'.target = some k ∧ 1 ≤ k ∧ k ≤ m.slaves.length
  slaves : ∀ (j : Nat) (e : Device), m.slaves[j]? = some e →
    ∃ e', m'.slaves[j]? = some e' ∧ (e' = e ∨ JointSlave O e e')

theorem slaves_stay {O : OadrLayout} {l : List Device} (j : Nat) (e : Device) (h : l[j]? = some e) :
    ∃ e', l[j]? = some e' ∧ (e' = e ∨ JointSlave O e e') := ⟨e, h, .inl rfl⟩

theorem slaveAt_some {l : List Device} {k : Nat} {d : Device} (h : slaveAt l k = some d) :
    1 ≤ k ∧ k ≤ l.length ∧ l[k - 1]? = some d := by
  unfold slaveAt at h
  split at h
  · cases h
  · rename_i hk
    obtain ⟨hlt, -⟩ := List.getElem?_eq_some_iff.mp h
    exact ⟨by omega, by omega, h⟩

theorem slaves_set {O : OadrLayout} {l : List Device} {k : Nat} {d d' : Device} (h : slaveAt l k = some d)
    (hm : JointSlave O d d') (j : Nat) (e : Device) (he : l[j]? = some e) :
    ∃ e', (setSlave l k d')[j]? = some e' ∧ (e' = e ∨ JointSlave O e e') := by
  obtain ⟨h1, h2, h3⟩ := slaveAt_some h
  unfold setSlave
  by_cases hj : k - 1 = j
  · subst hj
    obtain rfl : d = e := Option.some.inj (h3.symm.trans he)
    exact ⟨d', by simp [show k - 1 < l.length by omega], .inr hm⟩
  · exact ⟨e, by simp [hj, he], .inl rfl⟩

theorem targetSlave_some {m : BusMove} {k : Nat} {d : Device} (h : targetSlave m = some (k, d)) :
    m.target = some k ∧ slaveAt m.slaves k = some d := by
  unfold targetSlave at h
  split at h
  · cases h
  · rename_i k' hk'
    cases hs : slaveAt m.slaves k' with
    | none => rw [hs] at h; cases h
    | some d' => rw [hs] at h; cases h; exact ⟨hk', hs⟩

theorem endTransfer_moves (O : OadrLayout) (m : BusMove) (needByte : Bool) :
    (endTransfer m needByte).slaves.length = m.slaves.length ∧ (endTransfer m needByte).target = none ∧
    ∀ (j : Nat) (e : Device), m.slaves[j]? = some e →
      ∃ e', (endTransfer m needByte).slaves[j]? = some e' ∧ (e' = e ∨ JointSlave O e e') := by
  unfold endTransfer
  split
  · rename_i k d hk
    obtain ⟨-, hs⟩ := targetSlave_some hk
    split
    · rename_i ha
      simp only [Bool.and_eq_true] at ha
      exact ⟨by simp [setSlave], rfl, slaves_set hs (.ended ha.1)⟩
    · exact ⟨rfl, rfl, slaves_stay⟩
  · exact ⟨rfl, rfl, slaves_stay⟩

theorem mem_answering {O : OadrLayout} {a : Addr} {l : List Device} {k j : Nat} (h : j ∈ answering O a k l) :
    ∃ i d, j = k + i ∧ l[i]? = some d ∧ answers O a d = true := by
  induction l generalizing k with
  | nil => cases h
  | cons d ds ih =>
    unfold answering at h
    split at h
    · rename_i ha
      rcases List.mem_cons.mp h with rfl | h
      · exact ⟨0, d, rfl, rfl, ha⟩
      · obtain ⟨i, e, rfl, he, hae⟩ := ih h
        exact ⟨i + 1, e, by omega, by simpa using he, hae⟩
    · obtain ⟨i, e, rfl, he, hae⟩ := ih h
      exact ⟨i + 1, e, by omega, by simpa using he, hae⟩

theorem jointMove_moves {O : OadrLayout} {m m' : BusMove} (h : jointMove O m = some m') :
    m' = m ∨ JointMoves O m m' := by
  unfold jointMove at h
  split at h
  · cases h; exact .inl rfl
  · rename_i hp
    right
    cases h
    unfold jointStart
    split
    · rename_i ho
      obtain ⟨h1, h2, h3⟩ := endTransfer_moves O m false
      exact ⟨.repStart hp ho, h1, .inr (.inl h2), h3⟩
    · rename_i ho
      exact ⟨.start hp (by simpa using ho), rfl, .inl rfl, slaves_stay⟩
  · rename_i hp
    split at h
    · rename_i ha
      right
      obtain ⟨t, ht, rfl⟩ := Option.map_eq_some_iff.mp h
      have nobody : JointMoves O m { m with
          master := m.master.event (if t.getLsbD 0 = true then .mrSlaNack else .mtSlaNack)
          target := none } :=
        ⟨.address t false hp ha ht, rfl, .inr (.inl rfl), slaves_stay⟩
      unfold jointAddress
      dsimp only
      split
      · rename_i k hk
        split
        · rename_i d hd
          obtain ⟨h1, h2, h3⟩ := slaveAt_some hd
          obtain ⟨i, e, hi, he, hans⟩ := mem_answering (O := O) (a := t.extractLsb' 1 7) (l := m.slaves)
            (k := 1) (j := k) (by rw [hk]; simp)
          obtain rfl : d = e := by
            rw [show k - 1 = i by omega] at h3
            exact Option.some.inj (h3.symm.trans he)
          exact ⟨.address t true hp ha ht, by simp [setSlave], .inr (.inr ⟨k, rfl, h1, h2⟩),
            slaves_set hd (.addressed _ _ hans)⟩
        · exact nobody
      · exact nobody
    · split at h
      · rename_i ha hm
        right
        obtain ⟨t, ht, h⟩ := Option.bind_eq_some_iff.mp h
        unfold jointTransmit at h
        dsimp only at h
        split at h
        · rename_i k d hk
          obtain ⟨-, hs⟩ := targetSlave_some hk
          split at h
          · rename_i hc
            obtain ⟨a, hack, rfl⟩ := Option.map_eq_some_iff.mp h
            simp only [Bool.and_eq_true, beq_iff_eq] at hc
            exact ⟨.transmit a hp hm, by simp [setSlave], .inl rfl,
              slaves_set hs (.received t a hc.1 hc.2 hack)⟩
          · cases h
            exact ⟨.transmit false hp hm, rfl, .inl rfl, slaves_stay⟩
        · cases h
          exact ⟨.transmit false hp hm, rfl, .inl rfl, slaves_stay⟩
      · split at h
        · rename_i ha hm hr
          right
          obtain ⟨a, hack, h⟩ := Option.bind_eq_some_iff.mp h
          unfold jointReceive at h
          dsimp only at h
          split at h
          · rename_i k d hk
            obtain ⟨-, hs⟩ := targetSlave_some hk
            split at h
            · rename_i hc
              simp only [Bool.and_eq_true, beq_iff_eq] at hc
              split at h
              · rename_i t e ht he
                cases h
                refine ⟨.receive t a hp hr hack, by simp [setSlave], .inl rfl, ?_⟩
                unfold receiveEvent at he
                split at he
                · obtain ⟨ak, hak, rfl⟩ := Option.map_eq_some_iff.mp he
                  exact slaves_set hs (.sent ak hc.1 hc.2 hak)
                · cases he
                  exact slaves_set hs (.sentLast hc.1 hc.2)
              · cases h
            · cases h
              exact ⟨.receive 0xFF a hp hr hack, rfl, .inl rfl, slaves_stay⟩
          · cases h
            exact ⟨.receive 0xFF a hp hr hack, rfl, .inl rfl, slaves_stay⟩
        · cases h; exact .inl rfl
  · rename_i hp
    right
    cases h
    obtain ⟨h1, h2, h3⟩ := endTransfer_moves O m true
    exact ⟨.stop (by simp [hp, Pend.isStop]), h1, .inr (.inl h2), h3⟩
  · rename_i hp
    right
    cases h
    obtain ⟨h1, h2, h3⟩ := endTransfer_moves O m true
    exact ⟨.stop (by simp [hp, Pend.isStop]), h1, .inr (.inl h2), h3⟩

theorem jointStep_moves {s s' : State} (hb : s.cfg.busMode = .closedBus)
    (h : jointStep s = .next s') : Moves .joint s s' := by
  unfold jointStep at h
  split at h
  · cases h
  · rename_i d ds hds
    dsimp only at h
    split at h
    · rename_i he
      split at h
      · rename_i m' hm
        cases h
        simp only [jointEnabled, Bool.and_eq_true, Bool.not_eq_true', List.all_eq_true] at he
        obtain ⟨⟨⟨hen, hint⟩, -⟩, hall⟩ := he
        rcases jointMove_moves hm with rfl | hj
        · exact moves_of_stay rfl (by simp [State.setBus, hds]) rfl
        · refine ⟨rfl, by simp [State.setBus, hds, hj.length], ?_, ?_⟩
          · rcases hj.target with ht | ht | ⟨k, ht, h1, h2⟩
            · exact .inl ht
            · exact .inr (.inl ht)
            · exact .inr (.inr ⟨k, ht, h1, by simp only [hds, List.length_cons]; exact Nat.lt_succ_of_le h2⟩)
          · intro j e hje
            rw [hds] at hje
            cases j with
            | zero =>
              obtain rfl : d = e := by simpa using hje
              exact ⟨m'.master, rfl, .jointMaster _ hb rfl hen hint hj.master⟩
            | succ j =>
              have hje' : ds[j]? = some e := by simpa using hje
              obtain ⟨e', he', h'⟩ := hj.slaves j e hje'
              refine ⟨e', by simpa [State.setBus] using he', ?_⟩
              rcases h' with rfl | h'
              · exact .stay _
              · exact .jointSlave _ hb (by omega) (hall e (List.mem_of_getElem? hje')) h'
      · rename_i hm
        cases h
        refine ⟨rfl, by simp [State.setBus, hds], .inl rfl, ?_⟩
        intro j e hje
        rw [hds] at hje
        cases j with
        | zero =>
          obtain rfl : d = e := by simpa using hje
          exact ⟨_, rfl, .jointFault ds hb rfl hds hm⟩
        | succ j => exact ⟨e, by simpa [State.setBus] using hje, .stay _⟩
    · cases h
      exact moves_of_stay rfl rfl rfl

/-- SAID ONCE: everything a turn can do. -/
theorem turn_moves {t : Turn} {s s' : State} (h : stepTurn t s = .next s') : Moves t s s' := by
  rw [stepTurn_eq] at h
  cases t with
  | issue d who w => exact issueTurn_moves h
  | host k a =>
    change hostTurn a (s.focus k .host) = _ at h
    unfold hostTurn at h
    obtain ⟨d, hd, ⟨hc, h1⟩ | rfl⟩ := whenCur_next h
    · obtain ⟨e, he, rfl⟩ := onCur_next h1
      obtain rfl : d = e := Option.some.inj (hd.symm.trans he)
      exact moves_of_setCur hd (.hostAct a (by simpa [mayIssue] using hc))
    · exact moves_of_stay rfl rfl rfl
  | engine k =>
    obtain ⟨d, hd, rfl⟩ := onCur_next (h : onCur (s.focus k .host) _ = .next s')
    unfold engineTurn
    split
    · exact moves_of_setCur hd (.stay _)
    · rename_i hh
      exact moves_of_setCur hd (.engine (by simpa using hh))
  | xcvr k code b =>
    change xcvrTurn code b (s.focus k .host) = _ at h
    unfold xcvrTurn at h
    split at h
    · rename_i hb
      obtain ⟨d, hd, rfl⟩ := onCur_next h
      exact moves_of_setCur hd (.xcvr code b hb)
    · cases h; exact moves_of_stay rfl rfl rfl
  | handler k => exact handlerTurn_moves h
  | joint =>
    change jointTurn s = _ at h
    unfold jointTurn at h
    split at h
    · cases h; exact moves_of_stay rfl rfl rfl
    · rename_i hb; exact jointStep_moves hb h
  | direct k acc => exact directTurn_moves h
  | reset k =>
    obtain ⟨d, hd, rfl⟩ := onCur_next (h : onCur (s.focus k .host) _ = .next s')
    exact moves_of_setCur hd .reset
  | resetAll =>
    cases h
    refine ⟨rfl, by simp, .inr (.inl rfl), fun j e he => ⟨_, by simp [he, resetDevice], .resetAll⟩⟩

end Sys2Proof.Machine
end

