-- ==== Sys2Proof/Laws/Invariants.lean ====
section
/-! SUPPORT. Every operation of the transceiver, the engine, the handler and the host keeps `XcvrInv`, the
relation between `CTRL`, the phase and the pending command: one lemma per operation. -/

namespace Sys2Proof.Machine

/-- `XcvrInv` reads these fields only. -/
theorem xcvrInv_congr {d d' : Device} (h : d.XcvrInv) (h1 : d'.ctrl.en = d.ctrl.en) (h2 : d'.ctrl.int = d.ctrl.int) (h3 : d'.ctrl.sto = d.ctrl.sto) (h4 : d'.phase = d.phase) (h5 : d'.pend = d.pend) (h6 : d'.txbyte = d.txbyte) (h7 : d'.ack = d.ack) : d'.XcvrInv := by
  unfold Device.XcvrInv at *
  rw [h1, h2, h3, h4, h5, h6, h7]; exact h

/-- A phase that holds the bus is no slave's phase. -/
theorem Status.not_of_isOwner {p : Status} (h : p.isOwner = true) : p.isAddressed = false ∧ p ≠ .noInfo ∧ p ≠ .busError := by
  revert h; cases p <;> decide

/-- The phases of an addressed slave are no master's. -/
theorem Status.isAddressed_of {p : Status} (h : p.isSrOwn = true ∨ p.isSrGc = true ∨ p.isSt = true) : p.isAddressed = true ∧ p.isAddr = false ∧ p.isMt = false ∧ p.isMr = false := by
  revert h; cases p <;> decide

/-- The device an effect leaves, if it leaves one, meets `XcvrInv`. -/
def Eff.KeepsXcvrInv : Eff → Prop
  | .done d' => d'.XcvrInv
  | .fault _ d' => d'.XcvrInv
  | .refuse _ => True

/-- `CONTINUE` (R144). -/
theorem xcvrInv_continueCmd {L : CtrlLayout} {v : Byte} {d d' : Device} (hN : ctrlN L v = true)
    (hP : ctrlP L v = false)
    (h : d.XcvrInv) (hw : continueCmd d ((d.writeFields L v).setInt false) = .done d') : d'.XcvrInv := by
  have key : Eff.KeepsXcvrInv (continueCmd d ((d.writeFields L v).setInt false)) := by
    have h0 := h
    obtain ⟨h1, h2, h3, h4, h5, h6, h7⟩ := h
    unfold continueCmd
    split
    · exact h0
    rename_i c0
    have c0 : d.ctrl.int = true := by simpa using c0
    have hp := (h2 c0).1
    have mk : ∀ (x : Device), x.ctrl.en = true → x.ctrl.int = false → x.ctrl.sto = false → x.pend = .byte → x.phase.hasByteStep = true →
       ((x.phase.isAddr || x.phase.isMt || x.phase.isSt) = true → x.txbyte.isSome = true) → ((x.phase.isMr || x.phase.isAddressed) = true → x.ack.isSome = true) → x.XcvrInv := by
      intro x a1 a2 a3 a4 a5 a6 a7
      exact ⟨fun h => by simp [a1] at h, fun h => by simp [a2] at h, by rw [a3, a4]; rfl, fun h => by simp [a4, Pend.isStop] at h, fun _ => a5, fun _ => a6, fun _ => a7⟩
    have mk2 : ((d.writeFields L v).setInt false).unaddressed.XcvrInv := by
      refine ⟨?_, ?_, ?_, ?_, ?_, ?_, ?_⟩ <;> simp [hN, hP, Pend.isStop]
    have d1 : ∀ p : Status, (p.isAddr || p.isMt) = true → p.hasByteStep = true ∧ (p.isMr || p.isAddressed) = false := by intro p; cases p <;> decide
    have d2 : ∀ p : Status, p.isMr = true → p.hasByteStep = true ∧ (p.isAddr || p.isMt || p.isSt) = false := by intro p; cases p <;> decide
    have d3 : ∀ p : Status, (p.isSrOwn || p.isSrGc) = true → p.hasByteStep = true ∧ (p.isAddr || p.isMt || p.isSt) = false := by intro p; cases p <;> decide
    have d4 : ∀ p : Status, p.isSt = true → p.hasByteStep = true := by intro p; cases p <;> decide
    have d5 : ∀ p : Status, (p == .busError) = true → p.hasByteStep = true ∧ (p.isAddr || p.isMt || p.isSt) = false ∧ (p.isMr || p.isAddressed) = false := by intro p; cases p <;> decide
    split
    · rename_i c
      exact mk _ hN rfl hP rfl (d1 _ c).1 (fun _ => rfl) (fun hx => absurd hx (by rw [show _ = false from (d1 _ c).2]; simp))
    split
    · rename_i c
      exact mk _ hN rfl hP rfl (d2 _ c).1 (fun hx => absurd hx (by rw [show _ = false from (d2 _ c).2]; simp)) (fun _ => rfl)
    split
    · exact h0
    split
    · exact mk2
    split
    · rename_i c
      exact mk _ hN rfl hP rfl (d3 _ c).1 (fun hx => absurd hx (by rw [show _ = false from (d3 _ c).2]; simp)) (fun _ => rfl)
    split
    · rename_i c
      exact mk _ hN rfl hP rfl (d4 _ c) (fun _ => rfl) (fun _ => rfl)
    split
    · exact mk2
    split
    · rename_i c
      exact mk _ hN rfl hP rfl (d5 _ c).1 (fun hx => absurd hx (by rw [show _ = false from (d5 _ c).2.1]; simp)) (fun hx => absurd hx (by rw [show _ = false from (d5 _ c).2.2]; simp))
    · exact h0
  rw [hw] at key; exact key

/-- A control write that is done (R141). -/
theorem xcvrInv_ctrlWrite {cfg v} {d d' : Device} (h : d.XcvrInv) (hw : ctrlWrite cfg v d = .done d') : d'.XcvrInv := by
  obtain ⟨h1, h2, h3, h4, h5, h6, h7⟩ := h
  unfold ctrlWrite at hw
  dsimp only at hw
  split at hw
  · cases hw
  rename_i hres
  split at hw
  · cases hw
  rename_i hbusy
  simp only [reservedWord, Bool.or_eq_true, not_or, Bool.and_eq_true, bne_iff_ne, ne_eq, Bool.not_eq_true', not_and, Bool.not_eq_true] at hres
  obtain ⟨⟨⟨⟨hr1, hr2⟩, hr3⟩, hr4⟩, hr5⟩ := hres
  split at hw
  · rename_i hI
    simp only [Bool.not_eq_true'] at hI
    have hP : ctrlP cfg.chip.ctrl v = d.ctrl.sto := by simpa using hr5 hI
    cases hw
    unfold configCmd
    split_ifs with c1 c2
    · refine ⟨?_, ?_, ?_, ?_, ?_, ?_, ?_⟩ <;> simp [Device.switchOff, Pend.isStop]
    · simp only [Device.writeFields_ctrl, Bool.not_eq_true', Bool.not_eq_false] at c1 c2
      obtain ⟨e1, e2, e3⟩ := h1 c2
      refine ⟨?_, ?_, ?_, ?_, ?_, ?_, ?_⟩ <;> simp_all [Pend.isStop]
    · simp only [Device.writeFields_ctrl, Bool.not_eq_true', Bool.not_eq_false] at c1 c2
      exact xcvrInv_congr ⟨h1, h2, h3, h4, h5, h6, h7⟩ (by simp [c1, c2]) rfl (by simp [hP]) rfl rfl rfl rfl
  · rename_i hI
    simp only [Bool.not_eq_true', Bool.not_eq_false] at hI
    have hN : ctrlN cfg.chip.ctrl v = true := by by_contra hx; simp at hx; exact absurd (hr3 hI) (by simp [hx])
    split at hw
    · rename_i hS
      have hP : ctrlP cfg.chip.ctrl v = false := by by_contra hx; simp at hx; exact absurd (hr2 ⟨hI, hS⟩) (by simp [hx])
      unfold startCmd at hw
      split at hw
      · rename_i hp
        simp only [Device.setInt_pend, Device.writeFields_pend] at hp
        split at hw
        · cases hw
          refine ⟨?_, ?_, ?_, ?_, ?_, ?_, ?_⟩ <;> simp_all [Pend.isStop]
        · cases hw
      · cases hw
        refine ⟨?_, ?_, ?_, ?_, ?_, ?_, ?_⟩ <;> simp_all [Pend.isStop]
    · rename_i hS
      split at hw
      · rename_i hP
        cases hw
        unfold stopCmd
        split_ifs with c1 c2
        · simp only [Device.setInt_pend, Device.writeFields_pend] at c1
          refine ⟨?_, ?_, ?_, ?_, ?_, ?_, ?_⟩ <;> simp_all
        · simp only [Device.setInt_phase, Device.writeFields_phase] at c2
          refine ⟨?_, ?_, ?_, ?_, ?_, ?_, ?_⟩ <;> simp_all [Pend.isStop]
        · refine ⟨?_, ?_, ?_, ?_, ?_, ?_, ?_⟩ <;> simp_all [Pend.isStop]
      · rename_i hP
        exact xcvrInv_continueCmd hN (by simpa using hP) ⟨h1, h2, h3, h4, h5, h6, h7⟩ hw

/-- A bus event on an enabled device that stops nothing. -/
theorem xcvrInv_event {d : Device} (code : Status) (hc : code ≠ .noInfo) (he : d.ctrl.en = true) (hs : d.ctrl.sto = false) : (d.event code).XcvrInv := by
  refine ⟨?_, ?_, ?_, ?_, ?_, ?_, ?_⟩ <;> simp_all [Pend.isStop]

/-- `STO` reads 0 while no stop is pending (R24). -/
theorem xcvrInv_sto_off {d : Device} (h : d.XcvrInv) (hp : d.pend.isStop = false) : d.ctrl.sto = false := by
  rw [h.2.2.1, hp]

/-- 0xF8 is no code of `ANY`. -/
theorem anyCodes_ne_noInfo {c : Status} (h : c ∈ anyCodes) : c ≠ .noInfo := by
  revert h; cases c <;> decide

/-- No completion reports 0xF8 (R160). -/
theorem completionCodes_ne_noInfo {O : OadrLayout} {d : Device} {cs : List Status} (h : completionCodes O d = some cs) (c : Status) (hc : c ∈ cs) : c ≠ .noInfo := by
  unfold completionCodes at h
  have harb : ∀ ea g, Status.noInfo ∉ arbCodes ea g := by decide
  rintro rfl
  split at h
  · cases h; split at hc <;> simp at hc
  · split_ifs at h
    · obtain ⟨t, -, rfl⟩ := Option.map_eq_some_iff.mp h
      split at hc <;> simp [harb] at hc
    · cases h; simp [harb] at hc
    · obtain ⟨t, -, rfl⟩ := Option.map_eq_some_iff.mp h
      split at hc <;> simp [harb] at hc
    · cases h; exact anyCodes_ne_noInfo hc rfl
    · cases h; simp at hc
  · cases h; simp at hc
  · cases h; simp at hc
  · cases h; simp at hc

/-- No slave event reports 0xF8 (R165). -/
theorem eventCodes_ne_noInfo {O : OadrLayout} {d : Device} {cs : List Status} (h : eventCodes O d = some cs) (c : Status) (hc : c ∈ cs) : c ≠ .noInfo := by
  unfold eventCodes at h
  rintro rfl
  split at h
  · cases h; revert hc; split_ifs <;> simp
  · split_ifs at h
    · obtain ⟨t, -, rfl⟩ := Option.map_eq_some_iff.mp h
      cases t <;> simp at hc
    · obtain ⟨t, -, rfl⟩ := Option.map_eq_some_iff.mp h
      cases t <;> simp at hc
    · obtain ⟨t, -, rfl⟩ := Option.map_eq_some_iff.mp h
      cases t <;> simp at hc
    · cases h; simp at hc
  all_goals (cases h; simp at hc)

/-- Stop execution (R156). -/
theorem xcvrInv_executeStop {d : Device} (h : d.XcvrInv) (he : d.ctrl.en = true) (hp : d.pend.isStop = true) : (executeStop d).XcvrInv := by
  have hint : d.ctrl.int = false := by
    by_contra hx; simp at hx
    have := (h.2.1 hx).1; rw [this] at hp; simp [Pend.isStop] at hp
  have : d.pend.afterStop = .start ∨ d.pend.afterStop = .none := by
    revert hp; cases d.pend <;> simp [Pend.isStop, Pend.afterStop]
  refine ⟨?_, ?_, ?_, ?_, ?_, ?_, ?_⟩ <;> rcases this with e | e <;> simp_all [executeStop, Pend.isStop]

/-- The latches a completion or a slave event reads hold values (R145). -/
theorem codes_some (O : OadrLayout) {d : Device} (h : d.XcvrInv) :
    (∃ cs, completionCodes O d = some cs) ∧ ∃ cs, eventCodes O d = some cs := by
  obtain ⟨-, -, -, -, -, h6, h7⟩ := h
  unfold completionCodes eventCodes
  cases hp : d.pend <;> simp only [] <;> try exact ⟨⟨_, rfl⟩, _, rfl⟩
  have hA : d.phase.isSrOwn = true ∨ d.phase.isSrGc = true ∨ d.phase.isSt = true → ∃ a, d.ack = some a :=
    fun hx => Option.isSome_iff_exists.mp (h7 hp (by simp [(Status.isAddressed_of hx).1]))
  have hM : d.phase.isMr = true → ∃ a, d.ack = some a := fun hx =>
    Option.isSome_iff_exists.mp (h7 hp (by simp [hx]))
  have hT : d.phase.isAddr = true → ∃ t, d.txbyte = some t := fun hx =>
    Option.isSome_iff_exists.mp (h6 hp (by simp [hx]))
  constructor
  · split_ifs with c1 c2 c3 c4
    · obtain ⟨t, ht⟩ := hT c1; rw [ht]; exact ⟨_, rfl⟩
    · exact ⟨_, rfl⟩
    · obtain ⟨a, ha⟩ := hM c3; rw [ha]; exact ⟨_, rfl⟩
    · exact ⟨_, rfl⟩
    · exact ⟨_, rfl⟩
  · split_ifs with c1 c2 c3
    · obtain ⟨a, ha⟩ := hA (.inl c1); rw [ha]; exact ⟨_, rfl⟩
    · obtain ⟨a, ha⟩ := hA (.inr (.inl c2)); rw [ha]; exact ⟨_, rfl⟩
    · obtain ⟨a, ha⟩ := hA (.inr (.inr c3)); rw [ha]; exact ⟨_, rfl⟩
    · exact ⟨_, rfl⟩

/-- A joint step reads no latch that holds no value (R145). -/
theorem jointMove_ne_none (O : OadrLayout) {m : BusMove} (h : m.master.XcvrInv) (hs : ∀ d ∈ m.slaves, d.XcvrInv) :
    jointMove O m ≠ none := by
  obtain ⟨-, -, -, -, -, h6, h7⟩ := h
  have hslave : ∀ k d, targetSlave m = some (k, d) → d.XcvrInv := fun k d hk =>
    hs d (List.mem_of_getElem? (slaveAt_some (targetSlave_some hk).2).2.2)
  unfold jointMove
  cases hp : m.master.pend <;> simp only [] <;> try exact Option.some_ne_none _
  split_ifs with c1 c2 c3
  · obtain ⟨t, ht⟩ := Option.isSome_iff_exists.mp (h6 hp (by simp [c1]))
    simp [ht]
  · obtain ⟨t, ht⟩ := Option.isSome_iff_exists.mp (h6 hp (by simp [c2]))
    simp only [ht, Option.bind_some, jointTransmit]
    split
    · rename_i k d hk
      split_ifs with c
      · simp only [Bool.and_eq_true, beq_iff_eq] at c
        obtain ⟨a, ha⟩ := Option.isSome_iff_exists.mp ((hslave k d hk).2.2.2.2.2.2 c.2
          (by simp [(Status.isAddressed_of (.inl c.1)).1]))
        simp [ha]
      · simp
    · simp
  · obtain ⟨a, ha⟩ := Option.isSome_iff_exists.mp (h7 hp (by simp [c3]))
    simp only [ha, Option.bind_some, jointReceive]
    split
    · rename_i k d hk
      by_cases c : (d.phase.isSt && d.pend == .byte) = true
      · have c' := c
        simp only [Bool.and_eq_true, beq_iff_eq] at c'
        obtain ⟨t, ht⟩ := Option.isSome_iff_exists.mp ((hslave k d hk).2.2.2.2.2.1 c'.2 (by simp [c'.1]))
        obtain ⟨ak, hak⟩ := Option.isSome_iff_exists.mp ((hslave k d hk).2.2.2.2.2.2 c'.2
          (by simp [(Status.isAddressed_of (.inr (.inr c'.1))).1]))
        cases a <;> simp [c, ht, receiveEvent, hak]
      · simp only [c, Bool.false_eq_true, if_false]
        exact Option.some_ne_none _
    · simp
  · exact Option.some_ne_none _

/-- A step of the transceiver on the open bus. -/
theorem xcvrInv_xcvrStep (O : OadrLayout) (code b) {d : Device} (h : d.XcvrInv) : (xcvrStep O code b d).XcvrInv := by
  obtain ⟨⟨cs, hcs⟩, ⟨es, hes⟩⟩ := codes_some O h
  unfold xcvrStep drawn
  rw [hcs, hes]
  dsimp only
  split_ifs with c0 c1 c c2 c3 c
  · exact h
  · have hne := completionCodes_ne_noInfo hcs code (by simpa using c)
    simp only [completionEnabled, Bool.and_eq_true, Bool.or_eq_true, Bool.not_eq_true', beq_iff_eq] at c1
    have hp : d.pend.isStop = false := by rcases c1.2 with hp | ⟨hp, -⟩ <;> rw [hp] <;> rfl
    unfold complete
    split_ifs
    · exact xcvrInv_event (d := { d with data := b }) code hne c1.1.1 (xcvrInv_sto_off h hp)
    · exact xcvrInv_event code hne c1.1.1 (xcvrInv_sto_off h hp)
  · exact h
  · simp only [stopEnabled, Bool.and_eq_true] at c2
    exact xcvrInv_executeStop h c2.2 c2.1
  · have hne := eventCodes_ne_noInfo hes code (by simpa using c)
    simp only [slaveEventEnabled, Bool.and_eq_true, Bool.or_eq_true, Bool.not_eq_true', beq_iff_eq] at c3
    unfold slaveEvent
    split_ifs
    · exact xcvrInv_event (d := { d with data := b }) code hne c3.1.1.1 c3.1.2
    · exact xcvrInv_event code hne c3.1.1.1 c3.1.2
  · exact h
  · exact h

/-- A joint step at the master. -/
theorem xcvrInv_jointMaster {d d'} (h : d.XcvrInv) (he : d.ctrl.en = true) (hj : JointMaster d d') : d'.XcvrInv := by
  cases hj with
  | start hp ho => exact xcvrInv_event _ (by decide) he (xcvrInv_sto_off h (by rw [hp]; rfl))
  | repStart hp ho => exact xcvrInv_event _ (by decide) he (xcvrInv_sto_off h (by rw [hp]; rfl))
  | address t acked hp ha ht => exact xcvrInv_event _ (by cases t.getLsbD 0 <;> cases acked <;> decide) he (xcvrInv_sto_off h (by rw [hp]; rfl))
  | transmit acked hp ha => exact xcvrInv_event _ (by cases acked <;> decide) he (xcvrInv_sto_off h (by rw [hp]; rfl))
  | receive b a hp hm ha => exact xcvrInv_event (d := { d with data := b }) _ (by cases a <;> decide) he (xcvrInv_sto_off h (by rw [hp]; rfl))
  | stop hp => exact xcvrInv_executeStop h he hp

/-- An addressed slave's transceiver is on and stops nothing. -/
theorem xcvrInv_addressed {d : Device} (h : d.XcvrInv) (ha : d.phase.isAddressed = true) : d.ctrl.en = true ∧ d.ctrl.sto = false := by
  constructor
  · by_contra hx; simp at hx
    have := (h.1 hx).1; rw [this] at ha; revert ha; decide
  · apply xcvrInv_sto_off h
    by_contra hx; simp at hx
    have := (Status.not_of_isOwner (h.2.2.2.1 hx)).1; rw [this] at ha; cases ha

/-- A joint step at a slave. -/
theorem xcvrInv_jointSlave {O : OadrLayout} {d d'} (h : d.XcvrInv) (hj : JointSlave O d d') : d'.XcvrInv := by
  cases hj with
  | ended ha => exact xcvrInv_event _ (by decide) (xcvrInv_addressed h ha).1 (xcvrInv_addressed h ha).2
  | addressed a read hans =>
    simp only [answers, Bool.and_eq_true, beq_iff_eq] at hans
    exact xcvrInv_event _ (by cases read <;> decide) hans.1.1.1.1 (xcvrInv_sto_off h (by rw [hans.2]; rfl))
  | received t a hs hp ha =>
    have := xcvrInv_addressed h (Status.isAddressed_of (.inl hs)).1
    exact xcvrInv_event (d := { d with data := t }) _ (by cases a <;> decide) this.1 this.2
  | sentLast hs hp =>
    have := xcvrInv_addressed h (Status.isAddressed_of (.inr (.inr hs))).1
    exact xcvrInv_event _ (by decide) this.1 this.2
  | sent a hs hp ha =>
    have := xcvrInv_addressed h (Status.isAddressed_of (.inr (.inr hs))).1
    exact xcvrInv_event _ (by cases a <;> decide) this.1 this.2

/-- The device after the effect, whatever the effect is. -/
theorem Eff.KeepsXcvrInv.settle {d0 : Device} {e : Eff} {a : Agent} (h : Eff.KeepsXcvrInv e) (h0 : d0.XcvrInv) : (e.settle a d0).XcvrInv := by
  cases e with
  | done x => exact h
  | fault r x => exact xcvrInv_congr (d := x) h rfl rfl rfl rfl rfl rfl rfl
  | refuse r => exact xcvrInv_congr h0 rfl rfl rfl rfl rfl rfl rfl

/-- A control write, done or faulting. -/
theorem keepsXcvrInv_ctrlWrite (cfg v) {d : Device} (h : d.XcvrInv) : Eff.KeepsXcvrInv (ctrlWrite cfg v d) := by
  cases hw : ctrlWrite cfg v d with
  | done d' => exact xcvrInv_ctrlWrite h hw
  | fault r d' => rw [(ctrlWrite_fault cfg d hw).1]; exact h
  | refuse r => trivial

/-- An update that keeps `XcvrInv` after the effect. -/
theorem Eff.KeepsXcvrInv.map {e : Eff} {f : Device → Device} (h : Eff.KeepsXcvrInv e) (hf : ∀ x : Device, x.XcvrInv → (f x).XcvrInv) : Eff.KeepsXcvrInv (e.map f) := by
  cases e with
  | done x => exact hf _ h
  | fault r x => exact h
  | refuse r => trivial

/-- Reading `DATA`. -/
theorem xcvrInv_readData {d : Device} (h : d.XcvrInv) : (readData d).2.XcvrInv := by
  unfold readData; split <;> exact h

/-- Writing `DATA`. -/
theorem xcvrInv_writeData (v) {d : Device} (h : d.XcvrInv) : (writeData v d).XcvrInv := by
  unfold writeData; split <;> exact xcvrInv_congr h rfl rfl rfl rfl rfl rfl rfl

/-- `XcvrInv` does not read the stage. -/
theorem xcvrInv_goto {d : Device} (h : d.XcvrInv) (st) : (d.goto st).XcvrInv := h

/-- The handler's single-line primitives. -/
theorem keepsXcvrInv_line {cfg i op line} (hl : IsLine cfg i op line) {d : Device} (h : d.XcvrInv) : Eff.KeepsXcvrInv (line d) := by
  cases hl
  · exact keepsXcvrInv_ctrlWrite _ _ h
  · exact keepsXcvrInv_ctrlWrite _ _ h
  · exact xcvrInv_writeData _ h
  · exact xcvrInv_readData h
  · exact keepsXcvrInv_ctrlWrite _ _ h
  · exact keepsXcvrInv_ctrlWrite _ _ h
  · exact h

/-- One step of the engine. -/
theorem keepsXcvrInv_runStage (cfg : Config) {d : Device} (h : d.XcvrInv) : Eff.KeepsXcvrInv (runStage cfg d) := by
  have K : ∀ v, Eff.KeepsXcvrInv (ctrlWrite cfg v d) := fun v => keepsXcvrInv_ctrlWrite cfg v h
  unfold runStage
  split
  all_goals first
    | exact h
    | exact (K _).map fun x hx => hx
    | (show Eff.KeepsXcvrInv (hold _ d); unfold hold; split <;> exact h)
    | exact xcvrInv_writeData _ h
    | exact xcvrInv_readData h
    | exact xcvrInv_congr h rfl rfl rfl rfl rfl rfl rfl
    | (unfold configureMasterLine1; split_ifs <;> first | trivial | (dsimp only; split_ifs <;> trivial))
    | (unfold configureSlaveLine1; split_ifs <;> trivial)
    | (unfold setAckLine1; split_ifs <;> trivial)
    | (unfold withLatch; split <;> first | exact h | trivial | exact xcvrInv_writeData _ h | exact (K _).map fun x hx => hx)

/-- The host's other actions. -/
theorem xcvrInv_hostAct (a) {d : Device} (h : d.XcvrInv) : (hostAct a d).XcvrInv := by
  unfold hostAct
  cases a <;> dsimp only <;> (try unfold inFlightCheck) <;> (try split_ifs) <;> (try split) <;>
    exact h

/-- One invocation of the handler. -/
theorem keepsXcvrInv_handler {cfg action} (ha : IsAction cfg action) {d : Device} (h : d.XcvrInv) : Eff.KeepsXcvrInv (handlerInvocation action d) := by
  unfold handlerInvocation
  have h' : (takeInterrupt d).XcvrInv := h
  refine Eff.KeepsXcvrInv.map ?_ fun x hx => hx
  cases ha
  · exact keepsXcvrInv_ctrlWrite _ _ h'
  · refine keepsXcvrInv_ctrlWrite _ _ ?_
    exact xcvrInv_congr (xcvrInv_readData h') rfl rfl rfl rfl rfl rfl rfl
  · exact (keepsXcvrInv_ctrlWrite cfg cfg.chip.words.armForReply (xcvrInv_writeData _ h') : Eff.KeepsXcvrInv _)
  · exact keepsXcvrInv_ctrlWrite _ _ h'

/-- A device after its reset event. -/
theorem xcvrInv_afterReset {C : Chip} (hr : QuietReset C) (par n) :
    (Device.afterReset C par n).XcvrInv := by
  refine ⟨?_, ?_, ?_, ?_, ?_, ?_, ?_⟩ <;> simp [Device.afterReset, hr.1, hr.2, Pend.isStop]

/-- R46's values are quiet. -/
theorem quietReset_standard : QuietReset standardChip := by decide

end Sys2Proof.Machine
end

