-- ==== Sys2Proof/Laws/PerInstr.lean ====
section
/-! SUPPORT. Per instruction: its encoding has the fixed bits of its row of `spec/opcode_table.json`. -/

namespace Sys2Proof.Laws

/-- The mask and the match of an instruction's row. -/
def rowBits : Instr → Nat × Nat
  | .configureMaster _ _ => (0xFF000000, 0x10000000)
  | .configureSlave _ => (0xFF80FFFF, 0x20000000)
  | .start => (0xFFFFFFFF, 0x30000000)
  | .stop => (0xFFFFFFFF, 0x40000000)
  | .writeByte _ => (0xFFFF00FF, 0x50000000)
  | .readByte _ => (0xFEFFFFFF, 0x60000000)
  | .armForReply => (0xFFFFFFFF, 0x70000000)
  | .loadData _ => (0xFFFF00FF, 0x80000000)
  | .readData => (0xFFFFFFFF, 0x90000000)
  | .setAck _ => (0xFEFFFFFF, 0xA0000000)
  | .clearEvent => (0xFFFFFFFF, 0xB0000000)
  | .recover => (0xFFFFFFFF, 0xC0000000)
  | .writeCommand _ _ => (0xFF8000FF, 0xD0000000)
  | .readResponse _ => (0xFF80FFFF, 0xE0000000)
  | .readStatus => (0xFFFFFFFF, 0xF0000000)
  | .ctrlConfig _ _ _ _ _ => (0xA2, 0x00)
  | .ctrlContinue _ _ _ => (0xB6, 0x84)
  | .ctrlStart _ _ _ => (0xB6, 0xA4)
  | .ctrlStop _ _ _ => (0xB6, 0x94)
  | .evtAddrWOwn => (0xFF, 0x60)
  | .evtAddrWGeneral => (0xFF, 0x70)
  | .evtDataRxOwn => (0xFF, 0x80)
  | .evtDataRxGeneral => (0xFF, 0x90)
  | .evtDataReqAddress => (0xFF, 0xA8)
  | .evtDataReqContinuation => (0xFF, 0xB8)
  | .evtOther _ => (0x00, 0x00)

/-- A code word has the match under the mask. -/
def CodeWord.fits : CodeWord → Nat × Nat → Prop
  | .op w, (mask, mtch) => w &&& BitVec.ofNat 32 mask = BitVec.ofNat 32 mtch
  | .ctrl v, (mask, mtch) => v &&& BitVec.ofNat 8 mask = BitVec.ofNat 8 mtch
  | .evt key, (mask, mtch) => key &&& BitVec.ofNat 8 mask = BitVec.ofNat 8 mtch

namespace TableRow

/-- The encoding, with the spec's own layout and codes (R91, R97), has the row's fixed bits. -/
def Statement (i : Instr) : Prop := CodeWord.fits (encode standardChip i) (rowBits i)

theorem configureMaster (presc : Byte) (scl : BitVec 16) : Statement (.configureMaster presc scl) := by
  show (opcodeBits 0x1 ||| placePresc presc ||| placeScl scl) &&& 0xFF000000#32 = 0x10000000#32
  apply BitVec.eq_of_getLsbD_eq; intro i hi
  interval_cases i <;> simp [opcodeBits, placePresc, placeScl]

theorem configureSlave (addr : Addr) : Statement (.configureSlave addr) := by
  show (opcodeBits 0x2 ||| placeAddr addr) &&& 0xFF80FFFF#32 = 0x20000000#32
  apply BitVec.eq_of_getLsbD_eq; intro i hi
  interval_cases i <;> simp [opcodeBits, placeAddr]

theorem start : Statement .start := rfl

theorem stop : Statement .stop := rfl

theorem writeByte (b : Byte) : Statement (.writeByte b) := by
  show (opcodeBits 0x5 ||| placeByte b) &&& 0xFFFF00FF#32 = 0x50000000#32
  apply BitVec.eq_of_getLsbD_eq; intro i hi
  interval_cases i <;> simp [opcodeBits, placeByte]

theorem readByte (a : Bool) : Statement (.readByte a) := by cases a <;> rfl

theorem armForReply : Statement .armForReply := rfl

theorem loadData (b : Byte) : Statement (.loadData b) := by
  show (opcodeBits 0x8 ||| placeByte b) &&& 0xFFFF00FF#32 = 0x80000000#32
  apply BitVec.eq_of_getLsbD_eq; intro i hi
  interval_cases i <;> simp [opcodeBits, placeByte]

theorem readData : Statement .readData := rfl

theorem setAck (a : Bool) : Statement (.setAck a) := by cases a <;> rfl

theorem clearEvent : Statement .clearEvent := rfl

theorem recover : Statement .recover := rfl

theorem writeCommand (addr : Addr) (b : Byte) : Statement (.writeCommand addr b) := by
  show (opcodeBits 0xD ||| placeAddr addr ||| placeByte b) &&& 0xFF8000FF#32 = 0xD0000000#32
  apply BitVec.eq_of_getLsbD_eq; intro i hi
  interval_cases i <;> simp [opcodeBits, placeAddr, placeByte]

theorem readResponse (addr : Addr) : Statement (.readResponse addr) := by
  show (opcodeBits 0xE ||| placeAddr addr) &&& 0xFF80FFFF#32 = 0xE0000000#32
  apply BitVec.eq_of_getLsbD_eq; intro i hi
  interval_cases i <;> simp [opcodeBits, placeAddr]

theorem readStatus : Statement .readStatus := rfl

theorem ctrlConfig (ea sto wc en ie : Bool) : Statement (.ctrlConfig ea sto wc en ie) := by
  cases ea <;> cases sto <;> cases wc <;> cases en <;> cases ie <;> rfl

theorem ctrlContinue (ea wc ie : Bool) : Statement (.ctrlContinue ea wc ie) := by
  cases ea <;> cases wc <;> cases ie <;> rfl

theorem ctrlStart (ea wc ie : Bool) : Statement (.ctrlStart ea wc ie) := by
  cases ea <;> cases wc <;> cases ie <;> rfl

theorem ctrlStop (ea wc ie : Bool) : Statement (.ctrlStop ea wc ie) := by
  cases ea <;> cases wc <;> cases ie <;> rfl

theorem evtAddrWOwn : Statement .evtAddrWOwn := rfl

theorem evtAddrWGeneral : Statement .evtAddrWGeneral := rfl

theorem evtDataRxOwn : Statement .evtDataRxOwn := rfl

theorem evtDataRxGeneral : Statement .evtDataRxGeneral := rfl

theorem evtDataReqAddress : Statement .evtDataReqAddress := rfl

theorem evtDataReqContinuation : Statement .evtDataReqContinuation := rfl

theorem evtOther (key : Byte) : Statement (.evtOther key) := by
  show key &&& 0#8 = 0#8
  simp

end TableRow

end Sys2Proof.Laws
end

