-- ==== Sys2Proof/Tests/Slice0.lean ====
section
/-! SUPPORT. The model's own tests. Every expected value is written out from `95_test_vectors.md` (the
section is named at each group) or from the encodings of `30_encoding.md`. The last part shows, for each
statement with hypotheses, a concrete state and operands that meet them. -/

namespace Sys2Proof.Tests
open Sys2Proof Sys2Proof.Machine

/-! ### Well-formed terms: what the check refuses -/

theorem test_wellFormed_refuses_named_key : (Instr.evtOther 0x60).wellFormed standardStatus = false := by decide
theorem test_wellFormed_refuses_last_named_key :
    (Instr.evtOther 0xB8).wellFormed standardStatus = false := by decide
theorem test_wellFormed_admits_other_key :
    (Instr.evtOther 0x38).wellFormed standardStatus = true ∧
    (Instr.evtOther 0x39).wellFormed standardStatus = true := by decide

/-! ### Words written out bit by bit (R91, R105, R106, R114; vectors 2.1, 2.2, 2.4) -/

theorem test_decode_configure :
    decodeTableWord 32 0b0001_0000_00000100_0000000001100100 = some (.configureMaster 4 100) ∧
    decodeTableWord 32 0b0001_0000_11111111_0000000001100100 = some (.configureMaster 255 100) ∧
    decodeTableWord 32 0b0010_00000_0101010_00000000_00000000 = some (.configureSlave 0x2A) := by decide

theorem test_decode_master_primitives :
    decodeTableWord 32 0b0011_0000_00000000_00000000_00000000 = some .start ∧
    decodeTableWord 32 0b0100_0000_00000000_00000000_00000000 = some .stop ∧
    decodeTableWord 32 0b0101_0000_00000000_01010101_00000000 = some (.writeByte 0x55) ∧
    decodeTableWord 32 0b0110_0000_00000000_00000000_00000000 = some (.readByte false) ∧
    decodeTableWord 32 0b0110_0001_00000000_00000000_00000000 = some (.readByte true) := by decide

theorem test_decode_data_primitives :
    decodeTableWord 32 0b1000_0000_00000000_00101010_00000000 = some (.loadData 0x2A) ∧
    decodeTableWord 32 0b1001_0000_00000000_00000000_00000000 = some .readData ∧
    decodeTableWord 32 0b1010_0001_00000000_00000000_00000000 = some (.setAck true) ∧
    decodeTableWord 32 0b1111_0000_00000000_00000000_00000000 = some .readStatus := by decide

theorem test_decode_slave_primitives :
    decodeTableWord 32 0b0111_0000_00000000_00000000_00000000 = some .armForReply ∧
    decodeTableWord 32 0b1011_0000_00000000_00000000_00000000 = some .clearEvent ∧
    decodeTableWord 32 0b1100_0000_00000000_00000000_00000000 = some .recover := by decide

theorem test_decode_transactions :
    decodeTableWord 32 0b1101_0000_0_0101010_01010010_00000000 = some (.writeCommand 0x2A 0x52) ∧
    decodeTableWord 32 0b1110_0000_0_0101010_00000000_00000000 = some (.readResponse 0x2A) := by decide

theorem test_decode_illegal_words :
    ∀ w ∈ [0x00000000, 0x0FFFFFFF, 0x11010064, 0x20AA0000, 0x202A0001, 0x30000100, 0x50000055,
      0x62000000, 0xD02A5201, 0xD0FF0000, 0xE02A5200, 0xF8000000],
      decodeTableWord 32 w = none := by decide

theorem test_decode_control_words :
    decodeTableWord 8 0b00000100 = some (.ctrlConfig false false false true false) ∧
    decodeTableWord 8 0b01000101 = some (.ctrlConfig true false false true true) ∧
    decodeTableWord 8 0b00010100 = some (.ctrlConfig false true false true false) ∧
    decodeTableWord 8 0b10001100 = some (.ctrlContinue false true false) ∧
    decodeTableWord 8 0b11000101 = some (.ctrlContinue true false true) ∧
    decodeTableWord 8 0b10100100 = some (.ctrlStart false false false) ∧
    decodeTableWord 8 0b11010101 = some (.ctrlStop true false true) := by decide

theorem test_decode_reserved_control_words :
    ∀ v ∈ ([0x24, 0x02, 0xB4, 0x80, 0xA0] : List Byte),
      decodeCtrl standardCtrl v = .error .reservedControlWord := by decide

theorem test_decode_handler_keys :
    decodeTableWord 8 0b01100000 = some .evtAddrWOwn ∧
    decodeTableWord 8 0b01110000 = some .evtAddrWGeneral ∧
    decodeTableWord 8 0b10000000 = some .evtDataRxOwn ∧
    decodeTableWord 8 0b10010000 = some .evtDataRxGeneral ∧
    decodeTableWord 8 0b10101000 = some .evtDataReqAddress ∧
    decodeTableWord 8 0b10111000 = some .evtDataReqContinuation ∧
    decodeTableWord 8 0b11000000 = some (.evtOther 0xC0) := by decide

theorem test_other_handler_keys :
    ∀ key ∈ ([0x00, 0x08, 0x38, 0x68, 0x78, 0x88, 0x98, 0xA0, 0xB0, 0xC0, 0xC8, 0xD0, 0xF8,
      0x61, 0xFF] : List Byte), decodeEvt standardStatus key = .evtOther key := by decide

/-! ### Small states -/

/-- The fields of `CTRL` from the register as read (R175). -/
def ctrlOf (v : Byte) : Ctrl :=
  { int := v.getLsbD 7, ea := v.getLsbD 6, sta := v.getLsbD 5, sto := v.getLsbD 4, wc := v.getLsbD 3,
    en := v.getLsbD 2, ie := v.getLsbD 0 }

/-- A device at reset but for its role, `CTRL` and the phase. -/
def dev (role : Role) (ctrl phase : Byte) : Device :=
  { Device.afterReset standardChip (defaultParams 0) 0 with
    role := role, ctrl := ctrlOf ctrl, phase := (standardStatus.nameOf phase).getD .noInfo
    gie := role == .slave }

/-- A master device, and a slave device at address 0x2A with `RESP = 42`. -/
def master (ctrl phase : Byte) : Device := dev .master ctrl phase
def slave (ctrl phase data : Byte) : Device :=
  { dev .slave ctrl phase with data := data, oadr := 0x54, resp := 42 }

/-- A system of one device, on the open bus. -/
def sysOf (d : Device) (who : Issuer := .host) : State :=
  { State.reset with devs := [d], issuer := who }

/-- The device a result leaves. -/
def left (r : Result) : Option Device :=
  match r with
  | .next s => s.devs[0]?
  | .fault _ | .refused _ => none

/-- What a field of the device a result leaves holds. -/
def leaves {α : Type} (r : Result) (f : Device → α) : Option α := (left r).map f

/-- `CTRL`, phase and pending command. -/
def bus (d : Device) : Byte × Byte × Pend := (d.ctrl.toByte standardCtrl, d.phase.code, d.pend)

/-- The refusal a result leaves, with the mark. -/
def refusal (d : Device) : Bool × Option RefuseReason := (d.refused, d.lastRefusal)

/-! ### Configuration (vectors 3.1 and 3.2) -/

theorem test_configureMaster_prescaler_4 :
    leaves (exec (.configureMaster 4 100) (sysOf (dev .unconfigured 0x00 0xF8)))
      (·.stage) = some (.configureMaster2 0b01 0x12) := by decide

theorem test_configureMaster_rate_out_of_range :
    leaves (exec (.configureMaster 1 10) (sysOf (dev .unconfigured 0x00 0xF8)))
      refusal = some (true, some .bitRateOutOfRange) := by decide

theorem test_configureSlave_issued :
    leaves (exec (.configureSlave 0x2A) (sysOf (dev .unconfigured 0x00 0xF8)))
      (·.stage) = some (.configureSlave2 0x2A) := by decide

theorem test_configureSlave_role_conflict :
    leaves (exec (.configureSlave 0x2A) (sysOf (master 0x04 0xF8)))
      refusal = some (true, some .roleConflict) := by decide

/-! ### Master primitives (vectors 4 and 4.1) -/

theorem test_start : leaves (exec .start (sysOf (master 0x04 0xF8))) bus =
    some (0x24, 0xF8, .start) := by decide

theorem test_start_while_stop_pending :
    leaves (exec .start (sysOf { master 0x14 0xF8 with pend := .stop })) bus =
      some (0x34, 0xF8, .stopThenStart) := by decide

theorem test_stop_of_owner : leaves (exec .stop (sysOf (master 0x84 0x58))) bus =
    some (0x14, 0x58, .stop) := by decide

theorem test_stop_recovers : leaves (exec .stop (sysOf (master 0x84 0x38))) bus =
    some (0x04, 0xF8, .none) := by decide

theorem test_writeByte_stores : leaves (exec (.writeByte 0x54) (sysOf (master 0xA4 0x08)))
    (fun d => (d.data, d.ctrl.toByte standardCtrl)) = some (0x54, 0xA4) := by decide

theorem test_writeByte_collides : leaves (exec (.writeByte 0x54) (sysOf (master 0x04 0xF8)))
    (fun d => (d.data, d.ctrl.toByte standardCtrl)) = some (0xFF, 0x0C) := by decide

theorem test_readByte_nack : leaves (exec (.readByte false) (sysOf (master 0x84 0x40)))
    (fun d => (d.pend, d.ack, d.ctrl.toByte standardCtrl)) = some (.byte, some false, 0x04) := by decide

theorem test_readByte_after_last : leaves (exec (.readByte false) (sysOf (master 0x84 0x58)))
    (fun d => (d.faults.map (·.reason), bus d)) =
      some ([.continueAfterLastByte], 0x84, 0x58, .none) := by decide

theorem test_loadData_clears_wc : leaves (exec (.loadData 0x2A) (sysOf (master 0x8C 0x18)))
    (fun d => (d.data, d.ctrl.toByte standardCtrl)) = some (0x2A, 0x84) := by decide

theorem test_loadData_collides : leaves (exec (.loadData 0x2A) (sysOf (master 0x04 0xF8)))
    (fun d => (d.data, d.ctrl.toByte standardCtrl)) = some (0xFF, 0x0C) := by decide

theorem test_readData : leaves (exec .readData (sysOf { master 0x84 0x50 with data := 0x99 }))
    (·.ret) = some (.byte 0x99) := by decide

theorem test_readStatus_masks : leaves (exec .readStatus (sysOf { master 0x84 0x18 with ps := 0b01 }))
    (fun d => (d.stat standardChip, d.ret)) = some (0x19, .code 0x18) := by decide

theorem test_setAck_keeps_event :
    leaves (runTurns [.engine 0] (sysOf { master 0x84 0x18 with stage := .setAck2 0x84 true })) bus =
      some (0xC4, 0x18, .none) := by decide

theorem test_setAck_during_stop :
    leaves (exec (.setAck true) (sysOf { master 0x14 0xF8 with pend := .stop })) refusal =
      some (true, some .setAckDuringStop) := by decide

/-! ### Slave primitives (vectors 5) -/

theorem test_clearEvent : leaves (exec .clearEvent (sysOf (slave 0xC5 0x60 0x54) .handler))
    (fun d => (bus d, d.ack)) = some ((0x45, 0x60, .byte), some true) := by decide

theorem test_clearEvent_without_event :
    leaves (exec .clearEvent (sysOf (slave 0x45 0xF8 0x54) .handler))
      (fun d => d.faults.map (·.reason)) = some [.continueWithoutEvent] := by decide

theorem test_armForReply : leaves (exec .armForReply (sysOf (slave 0xC5 0xA8 0x2A) .handler))
    (fun d => (bus d, d.txbyte)) = some ((0x45, 0xA8, .byte), some 0x2A) := by decide

theorem test_recover : leaves (exec .recover (sysOf (slave 0xC5 0x80 0x2A) .handler)) bus =
    some (0x45, 0xF8, .none) := by decide

/-! ### Transactions (vectors 7.2, 7.3) -/

theorem test_writeCommand : leaves (exec (.writeCommand 0x2A 0x52) (sysOf (master 0x04 0xF8)))
    (fun d => (d.stage, d.eng.addr, d.eng.cmd)) = some (.wcStartGo, some 0x2A, some 0x52) := by decide

theorem test_writeCommand_unconfigured :
    leaves (exec (.writeCommand 0x2A 0x52) (sysOf (dev .unconfigured 0x00 0xF8))) refusal =
      some (true, some .notConfigured) := by decide

theorem test_readResponse : leaves (exec (.readResponse 0x2A) (sysOf (master 0x04 0xF8)))
    (fun d => (d.stage, d.eng.addr)) = some (.rrStartGo, some 0x2A) := by decide

theorem test_readResponse_in_flight :
    leaves (exec (.readResponse 0x2A) (sysOf { master 0x04 0x40 with stage := .rrReadWait })) refusal =
      some (true, some .operationInFlight) := by decide

/-! ### Control words written directly (vectors 2.2, 4, R141–R149) -/

theorem test_ctrlConfig_off : leaves (exec (.ctrlConfig false false false false false)
    (sysOf (master 0x84 0x18))) bus = some (0x00, 0xF8, .none) := by decide

theorem test_ctrlConfig_sto_changes : leaves (exec (.ctrlConfig false true false true false)
    (sysOf (master 0x04 0xF8))) refusal = some (true, some .reservedControlWord) := by decide

theorem test_ctrlContinue_transmits : leaves (exec (.ctrlContinue false false false)
    (sysOf { master 0xA4 0x08 with data := 0x54 })) (fun d => (bus d, d.txbyte)) =
      some ((0x04, 0x08, .byte), some 0x54) := by decide

theorem test_ctrlContinue_while_busy : leaves (exec (.ctrlContinue false false false)
    (sysOf { master 0x24 0xF8 with pend := .start })) (fun d => d.faults.map (·.reason)) =
      some [.commandWhileBusy] := by decide

theorem test_ctrlStart_repeated : leaves (exec (.ctrlStart false false false)
    (sysOf (master 0x84 0x28))) bus = some (0x24, 0x28, .start) := by decide

theorem test_ctrlStop : leaves (exec (.ctrlStop true false true)
    (sysOf (slave 0xC5 0xC0 0x2A) .handler)) bus = some (0x45, 0xF8, .none) := by decide

/-! ### The handler (vectors 6.1): one invocation per class -/

theorem test_evtAddrWOwn : leaves (exec .evtAddrWOwn (sysOf (slave 0xC5 0x60 0x54) .handler))
    (fun d => (bus d, d.ack, d.cell)) = some ((0x45, 0x60, .byte), some true, 0x00) := by decide

theorem test_evtAddrWGeneral : leaves (exec .evtAddrWGeneral (sysOf (slave 0xC5 0x70 0x00) .handler))
    (fun d => (bus d, d.cell)) = some ((0x45, 0x70, .byte), 0x00) := by decide

theorem test_evtDataRxOwn : leaves (exec .evtDataRxOwn (sysOf (slave 0xC5 0x80 0x52) .handler))
    (fun d => (bus d, d.cell, d.data)) = some ((0x45, 0x80, .byte), 0x52, 0x52) := by decide

theorem test_evtDataRxGeneral : leaves (exec .evtDataRxGeneral (sysOf (slave 0xC5 0x90 0x33) .handler))
    (fun d => (bus d, d.cell, d.data)) = some ((0x45, 0x90, .byte), 0x33, 0x33) := by decide

theorem test_evtDataReqAddress : leaves (exec .evtDataReqAddress (sysOf (slave 0xC5 0xA8 0x55) .handler))
    (fun d => (bus d, d.data, d.txbyte)) = some ((0x45, 0xA8, .byte), 0x2A, some 0x2A) := by decide

theorem test_evtDataReqContinuation :
    leaves (exec .evtDataReqContinuation (sysOf (slave 0xC5 0xB8 0x2A) .handler))
      (fun d => (bus d, d.data, d.txbyte)) = some ((0x45, 0xB8, .byte), 0x2A, some 0x2A) := by decide

theorem test_evtOther_stores_nothing :
    leaves (exec (.evtOther 0x88) (sysOf (slave 0xC5 0x88 0x11) .handler))
      (fun d => (bus d, d.cell, d.data, d.gie)) =
        some ((0x45, 0xF8, .none), 0x00, 0x11, true) := by decide

/-! ### Reset (vectors 9) -/

theorem test_reset_reads : (State.reset.devs[1]?).map (fun d =>
    (d.ctrl.toByte standardCtrl, d.stat standardChip, d.data, d.oadr, d.br, d.cell)) =
      some (0x00, 0xF8, 0xFF, 0xFE, 0x00, 0x00) := by decide

/-! ### What a host may not do, and configured values (R3, R41, R71, R310) -/

theorem test_slave_host_direct_access_refused :
    (∀ acc ∈ [RegAccess.read 3, .write 4 0xC5, .write 2 0x54],
      leaves (runTurns [.direct 0 acc] (sysOf (slave 0xC5 0x60 0x54))) (fun d => (refusal d, bus d)) =
        some ((true, some .hostTouchesSlaveTransceiver), 0xC5, 0x60, .none)) := by decide

theorem test_readOutcome_before_an_operation_faults :
    leaves (runTurns [.host 0 .readOutcome] (sysOf (master 0x04 0xF8)))
      (fun d => (d.faults, d.ret)) =
        some ([{ reason := .unwrittenLatch, agent := .host, stage := .idle }], .none) := by decide

theorem test_closed_bus_configure_of_other_role :
    leaves (exec (.configureSlave 0x2A)
      { sysOf (dev .unconfigured 0x00 0xF8) with cfg := { defaultConfig with busMode := .closedBus } })
      refusal = some (true, some .roleConflict) := by decide

/-- The table of R97 with two codes swapped (R96). -/
def swappedConfig : Config :=
  { defaultConfig with
    chip := { standardChip with status := { standardStatus with mtSlaAck := 0x20, mtSlaNack := 0x18 } } }

theorem test_status_table_is_configuration :
    leaves (exec .readStatus { sysOf (master 0x84 0x18) with cfg := swappedConfig }) (·.ret) =
      some (.code 0x20) ∧
    leaves (runTurns [.engine 0]
      { sysOf { master 0x84 0x18 with stage := .wcAddrTest } with cfg := swappedConfig })
      (fun d => (d.stage, d.eng.code)) = some (.wcDataLoad, some 0x20) := by decide

/-- Other layouts (R3): `CTRL` mirrored, `PS` in bits 2 and 1, the own address in bits 6 to 0, `GCE` in
bit 7, and other offsets. -/
def otherChip : Chip :=
  { standardChip with
    ctrl := { int := 0, ea := 1, sta := 2, sto := 3, wc := 4, en := 5, rsv := 6, ie := 7 }
    stat := { mask := 0xF8, psLo := 1 }
    oadr := { addrLo := 0, gce := 7 }
    offsets := { br := 7, stat := 6, oadr := 5, data := 1, ctrl := 0 } }

theorem test_other_layouts_are_well_formed : otherChip.WellFormed :=
  ⟨by decide, by decide, by decide, by decide, fun p => by cases p <;> decide,
    fun p q => by cases p <;> cases q <;> decide⟩

theorem test_layouts_are_configuration :
    let s (d : Device) : State := { sysOf d with cfg := { defaultConfig with chip := otherChip } }
    leaves (runTurns [.direct 0 (.write 0 0b10100010), .direct 0 (.read 0)]
      (s (dev .unconfigured 0x00 0xF8))) (fun d => (d.ctrl, d.ret)) =
        some (ctrlOf 0x45, .byte 0b10100010) ∧
    leaves (runTurns [.direct 0 (.write 6 0b110), .direct 0 (.read 6)] (s (master 0x84 0x18)))
      (fun d => (d.ps, d.ret)) = some (0b11, .byte 0x1E) ∧
    leaves (exec .readStatus (s { master 0x84 0x18 with ps := 0b11 })) (·.ret) = some (.code 0x18) ∧
    leaves (runTurns [.engine 0] (s { dev .unconfigured 0x00 0xF8 with stage := .configureSlave2 0x2A }))
      (·.oadr) = some 0x2A ∧
    leaves (runTurns [.direct 0 (.read 4)] (s (master 0x84 0x18))) refusal =
      some (true, some .badRegisterOffset) := by decide

/-! ### Witnesses: states and operands that meet the hypotheses of the statements

`witness_<Name>` is about `Obligations.<Name>`; one conjunct for each clause, at its boundary values. -/

theorem witness_ResetLeavesTheSpecifiedValues :
    [defaultParams 0, defaultParams 1][1]? = some (defaultParams 1) ∧
    (sysOf (master 0x84 0x58)).devs[0]? = some (master 0x84 0x58) := by decide

theorem witness_DecodeOfEncodeIsTheInstruction :
    (standardChip.WellFormed ∧ otherChip.WellFormed) ∧
    (Instr.evtOther 0xF8).wellFormed standardStatus = true ∧
    (Instr.configureMaster 0xFF 0xFFFF).wellFormed standardStatus = true ∧
    (Instr.ctrlConfig true true true true true).wellFormed standardStatus = true :=
  ⟨⟨standardChip_wellFormed, test_other_layouts_are_well_formed⟩, by decide⟩

theorem witness_EncodeOfDecodeIsTheWord :
    standardChip.ctrl.WellFormed ∧ otherChip.ctrl.WellFormed ∧
    decode otherChip (.ctrl 0b10100010) = .ok (.ctrlConfig true false false true true) ∧
    decode standardChip (.op 0xE07F0000) = .ok (.readResponse 0x7F) ∧
    decode standardChip (.ctrl 0x14) = .ok (.ctrlConfig false true false true false) ∧
    decode standardChip (.evt 0xF8) = .ok (.evtOther 0xF8) := by decide

theorem witness_OperationWordsDecodeByOpcodeAndMask :
    ((0x0FFFFFFF : OpWord).extractLsb' 28 4).toNat = 0 ∧
    ((0x10FFFFFF : OpWord).extractLsb' 28 4).toNat ≠ 0 ∧
    (0x10FFFFFF : OpWord) &&& ~~~0xF0FFFFFF = 0 ∧ (0x11000000 : OpWord) &&& ~~~0xF0FFFFFF ≠ 0 ∧
    ((0xF0000000 : OpWord).extractLsb' 28 4).toNat ≠ 0 ∧
    (0xF0000000 : OpWord) &&& ~~~0xF0000000 = 0 := by decide

theorem witness_ControlWordsSelectTheirClassOrAreRefused :
    (0x45 : Byte).getLsbD 1 = false ∧ (0x45 : Byte).getLsbD 7 = false ∧ (0x45 : Byte).getLsbD 5 = false ∧
    (∀ v ∈ ([0x84, 0xA4, 0x94] : List Byte),
      v.getLsbD 1 = false ∧ v.getLsbD 7 = true ∧ v.getLsbD 2 = true) ∧
    (0x84 : Byte).getLsbD 5 = false ∧ (0x84 : Byte).getLsbD 4 = false ∧
    (0xA4 : Byte).getLsbD 5 = true ∧ (0xA4 : Byte).getLsbD 4 = false ∧
    (0x94 : Byte).getLsbD 5 = false ∧ (0x94 : Byte).getLsbD 4 = true ∧
    (sysOf (master 0x04 0xF8)).devs[0]? = some (master 0x04 0xF8) ∧
    (sysOf (master 0x04 0xF8)).standard ∧
    (master 0x04 0xF8).halted .host = false ∧ (master 0x04 0xF8).role ≠ .slave ∧
    (0x02 : Byte).getLsbD 1 = true ∧
    ((0xB4 : Byte).getLsbD 7 = true ∧ (0xB4 : Byte).getLsbD 5 = true ∧ (0xB4 : Byte).getLsbD 4 = true) ∧
    ((0x80 : Byte).getLsbD 7 = true ∧ (0x80 : Byte).getLsbD 2 = false) ∧
    ((0x24 : Byte).getLsbD 7 = false ∧ (0x24 : Byte).getLsbD 5 = true) ∧
    ((0x14 : Byte).getLsbD 7 = false ∧ (0x14 : Byte).getLsbD 4 ≠ (master 0x04 0xF8).ctrl.sto) := by decide

theorem witness_AddressBytesCarryAddressAndDirection :
    ((0x20AA0000 : OpWord).getLsbD 23 = true ∧ (0x20AA0000 : OpWord).extractLsb' 28 4 = 0x2) ∧
    ((0xD0FF0000 : OpWord).getLsbD 23 = true ∧ (0xD0FF0000 : OpWord).extractLsb' 28 4 = 0xD) ∧
    ((0xE0800000 : OpWord).getLsbD 23 = true ∧ (0xE0800000 : OpWord).extractLsb' 28 4 = 0xE) := by decide

theorem witness_StatusReadsThePhaseWhileAnEventIsPending :
    (sysOf (master 0x84 0x58)).standard ∧ (sysOf (master 0x84 0x58)).devs[0]? = some (master 0x84 0x58) ∧
    (master 0x84 0x58).halted .host = false ∧ (master 0x84 0x58).ctrl.int = true ∧
    (master 0x04 0x58).ctrl.int = false ∧ (master 0x84 0x58).role ≠ .slave := by decide

theorem witness_ControlReadsAndTheRegisterSpace :
    (sysOf (master 0x84 0x58)).standard ∧ (sysOf (slave 0x45 0xF8 0xFF)).standard ∧
    (sysOf (master 0x84 0x58)).devs[0]? = some (master 0x84 0x58) ∧
    (master 0x84 0x58).halted .host = false ∧ (master 0x84 0x58).role ≠ .slave ∧
    (master 0x84 0x58).ctrl.int = true ∧ (master 0x04 0xF8).ctrl.int = false ∧
    5 ≤ (5 : BitVec 3).toNat ∧ 5 ≤ (7 : BitVec 3).toNat ∧
    (sysOf (slave 0x45 0xF8 0xFF)).devs[0]? = some (slave 0x45 0xF8 0xFF) ∧
    (slave 0x45 0xF8 0xFF).halted .host = false ∧ (slave 0x45 0xF8 0xFF).role = .slave ∧
    (0 : BitVec 3).toNat < 5 ∧ (4 : BitVec 3).toNat < 5 := by decide

theorem witness_StepRunsTheDecodedInstruction :
    standardChip.offsets.WellFormed ∧ otherChip.offsets.WellFormed ∧
    (sysOf (slave 0xC5 0xA8 0x55)).devs[0]? = some (slave 0xC5 0xA8 0x55) ∧
    (slave 0xC5 0xA8 0x55).halted .host = false ∧ decodeOp 0x90000000 = .ok .readData ∧
    (slave 0xC5 0xA8 0x55).handlerEnabled = true ∧ decodeCtrl standardCtrl 0xC5 = .ok (.ctrlContinue true false true) ∧
    decodeEvt standardStatus ((slave 0xC5 0xA8 0x55).statusCode standardChip) = .evtDataReqAddress ∧
    State.reset.standard ∧
    State.reset.devs[State.reset.cur]? = some (Device.afterReset standardChip (defaultParams 0) 0) ∧
    decodeTableWord 32 0x30000000 = some .start ∧
    decodeTableWord 8 0x45 = some (.ctrlConfig true false false true true) ∧
    decodeTableWord 8 0xA8 = some .evtDataReqAddress ∧
    decodeTableWord 0 0 = some (.evtOther 0x00) := by decide

theorem witness_IllegalWordsAndContextChecksAreRefusedInOrder :
    decodeOp 0x00000000 = .error .illegalOperationWord ∧
    decodeOp 0xD02A5201 = .error .illegalOperationWord ∧
    (master 0x04 0xF8).halted .host = false ∧
    (Instr.start.opKind = some .start ∧ (dev .unconfigured 0x00 0xF8).role = .unconfigured) ∧
    (Instr.recover.opKind = some .recover ∧ (master 0x04 0xF8).role = .master ∧
      (sysOf (master 0x04 0xF8)).issuer = .host) ∧
    (slave 0x45 0xF8 0xFF).role = .slave ∧ (sysOf (slave 0xC5 0x60 0x54) .handler).issuer = .handler ∧
    { master 0x04 0x40 with stage := .rrReadWait }.stage ≠ .idle ∧
    (Instr.readResponse 0x2A).opKind = some .readResponse ∧
    OpKind.readResponse ∉ [.configureSlave, .armForReply, .clearEvent, .recover] ∧
    (let s : State := { sysOf (dev .unconfigured 0x00 0xF8) with
       cfg := { defaultConfig with busMode := .closedBus } }
     s.cfg.busMode = .closedBus ∧ s.cur = 0 ∧ (Instr.configureSlave 0x2A).opKind = some .configureSlave ∧
       (dev .unconfigured 0x00 0xF8).role ≠ .master) :=
  ⟨by decide, by decide, by decide⟩

theorem witness_RefusalsAndFaultsChangeOnlyTheMarks :
    (∃ t d', exec .start (sysOf (dev .unconfigured 0x00 0xF8)) = .next t ∧ t.devs[0]? = some d' ∧
      (dev .unconfigured 0x00 0xF8).refused = false ∧ d'.refused = true) ∧
    (∃ d', ctrlWrite defaultConfig 0x84 (master 0x04 0xF8) = .fault .continueWithoutEvent d') ∧
    ((master 0x84 0x58).raise .continueAfterLastByte .engine).halted .engine = true ∧
    ((slave 0x45 0xF8 0x00).raise .continueWithoutEvent .handler).halted .handler = true ∧
    ((master 0x24 0xF8).raise .commandWhileBusy .host).halted .host = true ∧
    ((master 0x04 0x08).raise .unwrittenLatch .xcvr).halted .xcvr = true :=
  ⟨⟨_, _, rfl, rfl, rfl, rfl⟩, ⟨_, rfl⟩, by decide, by decide, by decide, by decide⟩

theorem witness_RolesMarksAndParametersStay :
    (Turn.engine 0).isReset = false ∧
    (∃ s', stepTurn (.engine 0) (sysOf { master 0x84 0x08 with stage := .start2 }) = .next s') ∧
    Device.RoleInv { master 0x84 0x08 with stage := .start2 } :=
  ⟨rfl, ⟨_, rfl⟩, by decide⟩

theorem witness_ConfigWriteUpdatesTheEnables :
    (sysOf (master 0x04 0xF8)).devs[0]? = some (master 0x04 0xF8) ∧ (master 0x04 0xF8).ctrl.sto = false ∧
    (sysOf (master 0x04 0xF8)).mayTouch (master 0x04 0xF8) ∧
    (sysOf (slave 0x45 0xF8 0xFF) .handler).mayTouch (slave 0x45 0xF8 0xFF) ∧
    (master 0x04 0xF8).ctrl.en = true ∧ (dev .unconfigured 0x00 0xF8).ctrl.en = false ∧
    (master 0x14 0x58).ctrl.sto = true := by decide

theorem witness_StartWriteRequestsAStart :
    (master 0x84 0x28).busy = false ∧ (sysOf (master 0x84 0x28)).mayTouch (master 0x84 0x28) ∧
    (master 0x84 0x28).pend ≠ .stop ∧ (master 0x84 0x28).pend ≠ .stopThenStart ∧
    (∀ p ∈ [Pend.stop, .stopThenStart], { master 0x14 0x58 with pend := p }.busy = false) ∧
    defaultConfig.overlap = .serialise ∧
    { defaultConfig with overlap := .fault }.overlap = .fault := by decide

theorem witness_StopWriteStopsOrRecovers :
    (∀ d ∈ [{ master 0x14 0x58 with pend := .stop }, master 0x84 0x58, master 0x84 0x38,
        slave 0xC5 0xC0 0x2A], d.busy = false ∧ (sysOf d .handler).mayTouch d) ∧
    (master 0x84 0x58).phase.isOwner = true ∧ (master 0x84 0x38).phase.isOwner = false := by decide

theorem witness_ContinueWriteTakesTheNextByteStep :
    (∀ d, (sysOf d).devs[0]? = some d) ∧
    (∀ d ∈ [master 0x04 0xF8, master 0xA4 0x08, master 0x84 0x30], d.busy = false ∧ (sysOf d .handler).mayTouch d) ∧
    (∀ d ∈ [master 0xC4 0x50, master 0x84 0x48, master 0x84 0x38], d.busy = false ∧ (sysOf d .handler).mayTouch d) ∧
    (∀ d ∈ [slave 0xC5 0x60 0x54, slave 0xC5 0x90 0x33], d.busy = false ∧ (sysOf d .handler).mayTouch d) ∧
    (∀ d ∈ [slave 0xC5 0xB8 0x2A,
        slave 0xC5 0xC8 0x2A, master 0x84 0x00, master 0x84 0xF0],
      d.busy = false ∧ (sysOf d .handler).mayTouch d) ∧
    (master 0x04 0xF8).ctrl.int = false ∧ (master 0xA4 0x08).phase.isAddr = true ∧
    (master 0x84 0x30).phase.isMt = true ∧ (master 0xC4 0x50).phase.isMr = true ∧
    (master 0x84 0x48).phase.isMrLast = true ∧ (master 0x84 0x38).phase = .arbLost ∧
    (slave 0xC5 0x60 0x54).phase.isSrOwn = true ∧ (slave 0xC5 0x90 0x33).phase.isSrGc = true ∧
    (slave 0xC5 0xB8 0x2A).phase.isSt = true ∧ (slave 0xC5 0xC8 0x2A).phase.isSrEnd = true ∧
    (master 0x84 0x00).phase = .busError ∧ (master 0x84 0xF0).phase = .codeF0 :=
  ⟨fun _ => rfl, by decide, by decide, by decide, by decide, by decide⟩

theorem witness_CommandWhileBusyFaults :
    { master 0x24 0xF8 with pend := .start }.busy = true ∧
    { master 0x04 0x18 with pend := .byte }.busy = true ∧
    (sysOf { master 0x24 0xF8 with pend := .start }).mayTouch { master 0x24 0xF8 with pend := .start } ∧
    (slave 0x45 0x60 0x54).role = .slave ∧ (sysOf (slave 0x45 0x60 0x54)).issuer = .host ∧
    Instr.ctrlContinue false false false ∈ [Instr.ctrlContinue false false false,
      .ctrlStart false false false, .ctrlStop false false false] := by decide

theorem witness_ConfigureMasterChoosesTheBitRateAndProgramsTheRegisters :
    (∀ d ∈ [dev .unconfigured 0x00 0xF8, slave 0x45 0xF8 0xFF, master 0x14 0x58],
      (sysOf d).devs[0]? = some d ∧ (sysOf d).issuer = .host ∧ d.stage = .idle ∧
      (sysOf d).standard ∧ roleOnBus (sysOf d).cfg (sysOf d).cur ≠ some .slave) ∧
    (slave 0x45 0xF8 0xFF).role = .slave ∧ (dev .unconfigured 0x00 0xF8).role ≠ .slave ∧
    (master 0x14 0x58).ctrl.sto = true ∧ (dev .unconfigured 0x00 0xF8).ctrl.sto = false ∧
    (let d := { dev .unconfigured 0x00 0xF8 with stage := .configureMaster2 0b01 0x12 }
     (sysOf d).devs[0]? = some d ∧ d.halted .engine = false ∧ d.ctrl.sto = false ∧
      d.stage = .configureMaster2 0b01 0x12) := by decide

theorem witness_ConfigureSlaveProgramsTheRegisters :
    (∀ d ∈ [dev .unconfigured 0x00 0xF8, slave 0x45 0xF8 0xFF, master 0x04 0xF8],
      (sysOf d).devs[0]? = some d ∧ (sysOf d).issuer = .host ∧ d.stage = .idle ∧
      d.halted .engine = false ∧ roleOnBus (sysOf d).cfg (sysOf d).cur ≠ some .master) ∧
    (master 0x04 0xF8).role = .master ∧ (slave 0x45 0xF8 0xFF).role ≠ .master ∧
    (dev .slave 0x14 0x58).ctrl.sto = true ∧ (slave 0x45 0xF8 0xFF).ctrl.sto = false := by decide

theorem witness_StartPrimitive :
    (∀ d ∈ [master 0x04 0xF8, { master 0x24 0xF8 with pend := .start },
      { master 0x14 0x58 with pend := .stop }], (sysOf d).masterIssues d) ∧
    { master 0x24 0xF8 with pend := .start }.busy = true ∧ (master 0x04 0xF8).busy = false ∧
    { master 0x14 0x58 with pend := .stop }.busy = false := by decide

theorem witness_StopPrimitive :
    (∀ d ∈ [master 0x84 0x58, master 0x84 0x38, { master 0x24 0xF8 with pend := .start },
      { master 0x14 0x58 with pend := .stop }], (sysOf d).masterIssues d) ∧
    { master 0x24 0xF8 with pend := .start }.busy = true ∧
    (master 0x84 0x58).busy = false ∧ (master 0x84 0x58).phase.isOwner = true ∧
    (master 0x84 0x38).phase.isOwner = false := by decide

theorem witness_WriteByteSendsAndReturnsTheCode :
    (∀ d ∈ [master 0xA4 0x10, master 0x84 0x18, master 0x04 0xF8], (sysOf d).masterIssues d ∧
      d.halted .engine = false ∧ d.halted .xcvr = false ∧ (sysOf d).standard) ∧
    (sysOf (master 0xA4 0x10)).cfg.busMode = .openBus ∧ (master 0xA4 0x10).ctrl.int = true ∧
    (master 0xA4 0x10).phase.isAddr = true ∧ (master 0x84 0x18).phase.isMt = true ∧
    (master 0x04 0xF8).ctrl.int = false ∧
    (0x55 : Byte).getLsbD 0 = true ∧ Status.mrSlaAck ∈ [Status.mrSlaAck, .mrSlaNack] := by decide

theorem witness_ReadByteReturnsByteAndCode :
    (∀ d ∈ [master 0x84 0x40, master 0x84 0x58, master 0x04 0xF8], (sysOf d).masterIssues d ∧
      d.halted .engine = false ∧ d.halted .xcvr = false) ∧
    Status.srArbLostGcallAck ∈ (if true && { master 0x84 0x40 with oadr := 0xFF }.oadr.getLsbD 0
      then [Status.srArbLostGcallAck] else []) ∧
    (∃ d', ctrlWrite defaultConfig 0xC4 { master 0x84 0x40 with stage := .readByte1 true } = .done d') ∧
    (master 0x04 0xF8).ctrl.int = false ∧ (master 0x04 0xF8).busy = false ∧
    (master 0x84 0x58).phase.isMrLast = true ∧ (master 0x84 0x40).phase.isMr = true ∧
    (sysOf (master 0x84 0x40)).cfg.busMode = .openBus :=
  ⟨by decide, by decide, ⟨_, rfl⟩, by decide⟩

theorem witness_StatusAndDataPrimitives :
    (∀ d ∈ [master 0x84 0x18, master 0x04 0xF8], (sysOf d).masterIssues d) ∧
    (sysOf (slave 0xC5 0x80 0x52) .handler).handlerIssues (slave 0xC5 0x80 0x52) ∧
    (master 0x84 0x18).ctrl.int = true ∧ (master 0x04 0xF8).ctrl.int = false := by decide

theorem witness_SetAckKeepsAPendingEvent :
    (∀ d ∈ [master 0x84 0x18, master 0x14 0x58, master 0x00 0xF8], (sysOf d).masterIssues d ∧
      d.halted .engine = false) ∧
    (master 0x14 0x58).ctrl.sto = true ∧ (master 0x84 0x18).ctrl.en = true ∧
    (master 0x00 0xF8).ctrl.en = false := by decide

theorem witness_HandlerPrimitives :
    (∀ d ∈ [slave 0xC5 0x60 0x54, slave 0xC5 0x90 0x33, slave 0xC5 0xB8 0x2A, slave 0xC5 0xC8 0x2A,
        slave 0xC5 0x00 0x5A, slave 0x45 0xF8 0x54, slave 0x80 0x60 0x54],
      (sysOf d .handler).handlerIssues d) ∧
    (∃ d', ctrlWrite defaultConfig 0xC5 (slave 0xC5 0x60 0x54) = .done d') ∧
    ctrlWrite defaultConfig 0xC5 (slave 0x45 0xF8 0x54) =
      .fault .continueWithoutEvent (slave 0x45 0xF8 0x54) ∧
    (slave 0xC5 0x60 0x54).phase.isSrOwn = true ∧ (slave 0xC5 0x90 0x33).phase.isSrGc = true ∧
    (slave 0xC5 0xB8 0x2A).phase.isSt = true ∧ (slave 0xC5 0xC8 0x2A).phase.isSrEnd = true ∧
    (slave 0xC5 0x00 0x5A).phase.isOwner = false ∧ (slave 0xC5 0x00 0x5A).pend = .none ∧
    (slave 0x45 0xF8 0x54).ctrl.int = false ∧ (slave 0x45 0xF8 0x54).busy = false ∧
    (slave 0x80 0x60 0x54).ctrl.en = false :=
  ⟨by decide, ⟨_, rfl⟩, by decide⟩

theorem witness_GoStagesWriteTheirControlWord :
    (∀ d ∈ [{ master 0x04 0xF8 with stage := .wcStartGo }, { master 0x04 0xF8 with stage := .wcAddrGo },
        { master 0x84 0x40 with stage := .readByte1 true }], d.halted .engine = false) ∧
    (∃ d', ctrlWrite defaultConfig 0xA4 { master 0x04 0xF8 with stage := .wcStartGo } = .done d') ∧
    (∃ d', ctrlWrite defaultConfig 0x84 { master 0x04 0xF8 with stage := .wcAddrGo } =
      .fault .continueWithoutEvent d') ∧
    (∀ st ∈ [Stage.configureMaster4, .configureSlave3, .setAck2 0x14 true],
      ({ master 0x14 0x58 with stage := st } : Device).ctrl.sto = true) :=
  ⟨by decide, ⟨_, rfl⟩, ⟨_, rfl⟩, by decide⟩

theorem witness_HoldsWaitAndPrimitivesReturn :
    (∀ d ∈ [{ master 0x84 0x18 with stage := .wcAddrWait }, { master 0x04 0x08 with stage := .start2 },
        { master 0x84 0x18 with stage := .writeByte4 }, { master 0x84 0x58 with stage := .readByte3 },
        { master 0x84 0x58 with stage := .readByte4 0x58 },
        { master 0x04 0x58 with stage := .readByte4 0x58 }],
      (sysOf d).devs[0]? = some d ∧ d.halted .engine = false) ∧
    (master 0x84 0x18).ctrl.int = true ∧ (master 0x04 0x08).ctrl.int = false := by decide

/-- A master device in a transaction at 0x2A with the command 0x52. -/
def atStage (st : Stage) (ctrl phase : Byte) : Device :=
  { master ctrl phase with stage := st, eng := { addr := some 0x2A, cmd := some 0x52, code := some phase,
                                                 byte := some 0x99, outcome := none } }

theorem witness_TransactionsAreIssuedAndLoadTheirBytes :
    (sysOf (master 0x04 0xF8)).masterIssues (master 0x04 0xF8) ∧
    { master 0x04 0xF8 with stage := .wcIssue 0x2A 0x52 }.halted .engine = false ∧
    ∀ st ∈ [Stage.wcAddrLoad, .rrAddrLoad, .wcDataLoad],
      (atStage st 0xA4 0x08).halted .engine = false ∧ (atStage st 0xA4 0x08).eng.addr = some 0x2A ∧
      (atStage st 0xA4 0x08).eng.cmd = some 0x52 ∧ (atStage st 0xA4 0x08).ctrl.int = true := by decide

theorem witness_TestStagesAcceptTheirCodesAndClassifyNamesTheOutcome :
    (0x20 : Byte) ∈ ([0x20, 0x30, 0x48] : List Byte) ∧
    (0xB0 : Byte) ∈ ([0x38, 0x68, 0x78, 0xB0] : List Byte) ∧
    (0x00 : Byte) ∉ ([0x20, 0x30, 0x48] : List Byte) ∧
    (0x00 : Byte) ∉ ([0x38, 0x68, 0x78, 0xB0] : List Byte) ∧
    { master 0x84 0x18 with stage := .wcAddrTest }.statusCode standardChip = 0x18 ∧
    { master 0x84 0x20 with stage := .wcAddrTest }.statusCode standardChip = 0x20 ∧
    { master 0x84 0x58 with stage := .rrReadTest }.ctrl.int = true ∧
    { master 0x84 0x58 with stage := .rrReadTest }.halted .engine = false := by decide

theorem witness_OperationsEndWithAStopWord :
    (∃ d', ctrlWrite defaultConfig 0x94 (atStage .wcFinish 0x84 0x28) = .done d') ∧
    (∃ d', ctrlWrite defaultConfig 0x94 (atStage .rrFinish 0x84 0x58) = .done d') ∧
    (∃ d', ctrlWrite defaultConfig 0x94 (atStage .wcAbort 0x84 0x20) = .done d') ∧
    (∃ s' d', stepTurn (.engine 0) (sysOf (atStage .wcFinish 0x84 0x28)) = .next s' ∧
      s'.devs[0]? = some d' ∧ d'.eng.outcome ≠ (atStage .wcFinish 0x84 0x28).eng.outcome) :=
  ⟨⟨_, rfl⟩, ⟨_, rfl⟩, ⟨_, rfl⟩, _, _, rfl, rfl, by decide⟩

/-- The layout premise of the statements about control writes. -/
theorem witness_layout_of_control_writes :
    (sysOf (master 0x04 0xF8)).cfg.chip.ctrl.WellFormed ∧ otherChip.ctrl.WellFormed := by decide

/-- The hypotheses of both open-bus runs. -/
theorem witness_transaction_runs :
    (sysOf (master 0x04 0xF8)).standard ∧ (master 0x04 0xF8).halted .xcvr = false ∧
    (sysOf (master 0x04 0xF8)).devs[0]? = some (master 0x04 0xF8) ∧
    (sysOf (master 0x04 0xF8)).cfg.busMode = .openBus ∧ (master 0x04 0xF8).halted .host = false ∧
    (master 0x04 0xF8).halted .engine = false ∧ (master 0x04 0xF8).role = .master ∧
    (master 0x04 0xF8).stage = .idle ∧ (master 0x04 0xF8).ctrl.int = false ∧
    (master 0x04 0xF8).ctrl.sto = false ∧ (master 0x04 0xF8).pend = .none ∧
    (master 0x04 0xF8).phase = .noInfo := by decide

theorem witness_CompletionsFollowTheRelation :
    (∀ d ∈ [{ master 0x24 0x28 with pend := .start }, { master 0x24 0x00 with pend := .start },
        { master 0x04 0x10 with pend := .byte, txbyte := some 0x55 }],
      d.ctrl.en = true ∧ d.ctrl.int = false ∧ d.halted .xcvr = false) ∧
    (∀ d ∈ [{ master 0x04 0x30 with pend := .byte, txbyte := some 0x52 },
        { master 0x04 0x50 with pend := .byte, ack := some false },
        { master 0x04 0x00 with pend := .byte }], d.ctrl.en = true ∧ d.ctrl.int = false) ∧
    (master 0x24 0x28).phase.isOwner = true ∧ (master 0x24 0x00).phase.isOwner = false ∧
    (master 0x04 0x10).phase.isAddr = true ∧ (master 0x04 0x30).phase.isMt = true ∧
    (master 0x04 0x50).phase.isMr = true ∧ (master 0x04 0x00).phase = .busError :=
  ⟨by decide, by decide, by decide⟩

theorem witness_SlaveEventsFollowTheRelation :
    (∀ d ∈ [slave 0x45 0xF8 0xFF, { slave 0x45 0x60 0x54 with pend := .byte, ack := some true },
        { slave 0x45 0x78 0x54 with pend := .byte, ack := some true },
        { slave 0x45 0xB0 0x54 with pend := .byte, ack := some true }],
      d.ctrl.en = true ∧ d.ctrl.int = false ∧ d.ctrl.sto = false ∧ d.halted .xcvr = false) ∧
    (slave 0x45 0xF8 0xFF).pend = .none ∧ (slave 0x45 0xF8 0xFF).phase = .noInfo ∧
    (slave 0x45 0x60 0x54).phase.isSrOwn = true ∧ (slave 0x45 0x78 0x54).phase.isSrGc = true ∧
    (slave 0x45 0xB0 0x54).phase.isSt = true :=
  ⟨by decide, by decide⟩

/-! The closed bus: a master and a slave at 0x2A, booted as in R385 (vectors 8). -/

/-- The parameters of a closed bus. -/
def closedConfig : Config := { defaultConfig with busMode := .closedBus }

/-- A closed system of a master and one slave. -/
def closedOf (m d : Device) (target : Option Nat := none) : State :=
  { State.resetWith closedConfig [] with devs := [m, d], target := target }

theorem witness_TransceiverHoldsAndStops :
    (∀ d ∈ [{ master 0x14 0x58 with pend := .stop }, { master 0x34 0x58 with pend := .stopThenStart }],
      (sysOf d).devs[0]? = some d ∧ (sysOf d).cfg.busMode = .openBus ∧ d.ctrl.en = true ∧
        d.halted .xcvr = false) ∧
    (dev .unconfigured 0x00 0xF8).ctrl.en = false ∧ (master 0x84 0x18).ctrl.int = true ∧
    (master 0x84 0x18).pend ≠ .stop ∧ (master 0x84 0x18).pend ≠ .stopThenStart ∧
    closedConfig.busMode = .closedBus ∧ (slave 0xC5 0x60 0x54).handlerEnabled = true := by decide

theorem witness_JointStepsHoldStartAndStop :
    (closedOf (master 0x04 0xF8) (slave 0xC5 0x60 0x54)).cfg.busMode = .closedBus ∧
    (slave 0xC5 0x60 0x54).ctrl.int = true ∧ (master 0x84 0x18).ctrl.int = true ∧
    (master 0x00 0xF8).ctrl.en = false ∧ (master 0x04 0xF8).pend = .none ∧
    (∀ m ∈ [{ master 0x24 0xF8 with pend := .start }, { master 0x24 0x28 with pend := .start },
        { master 0x14 0x28 with pend := .stop }], m.ctrl.en = true ∧ m.ctrl.int = false ∧ m.halted .xcvr = false) ∧
    (master 0x24 0xF8).phase.isOwner = false ∧ (master 0x24 0x28).phase.isOwner = true ∧
    (let d : Device := { slave 0x45 0x80 0x52 with pend := .byte, ack := some true }
     d.ctrl.int = false ∧ d.phase.isAddressed = true ∧ d.pend = .byte) ∧
    (slave 0x45 0xF8 0xFF).phase.isAddressed = false := by decide

theorem witness_JointAddressByte :
    (let m : Device := { master 0x04 0x08 with pend := .byte, txbyte := some 0x55 }
     m.ctrl.en = true ∧ m.ctrl.int = false ∧ m.halted .xcvr = false ∧ m.pend = .byte ∧ m.phase.isAddr = true ∧
       m.txbyte = some 0x55) ∧
    (let d := slave 0x45 0xF8 0xFF
     d.ctrl.int = false ∧ d.ctrl.en = true ∧ d.ctrl.ea = true ∧
       d.oadr.extractLsb' 1 7 = (0x55 : Byte).extractLsb' 1 7 ∧ d.phase = .noInfo ∧ d.pend = .none) ∧
    (slave 0x45 0xF8 0xFF).oadr.extractLsb' 1 7 ≠ (0x58 : Byte).extractLsb' 1 7 := by decide

theorem witness_JointTransmitByte :
    (let m : Device := { master 0x04 0x18 with pend := .byte, txbyte := some 0x52 }
     m.ctrl.en = true ∧ m.ctrl.int = false ∧ m.halted .xcvr = false ∧ m.pend = .byte ∧ m.phase.isMt = true ∧
       m.txbyte = some 0x52) ∧
    (let d : Device := { slave 0x45 0x60 0x54 with pend := .byte, ack := some true }
     (closedOf (master 0x04 0x18) d (some 1)).target = some (0 + 1) ∧ d.ctrl.int = false ∧
       d.phase.isSrOwn = true ∧ d.pend = .byte ∧ d.ack = some true) ∧
    (slave 0x45 0xF8 0xFF).phase.isSrOwn = false := by decide

theorem witness_JointReceiveByte :
    (let m : Device := { master 0x04 0x40 with pend := .byte, ack := some false }
     m.ctrl.en = true ∧ m.ctrl.int = false ∧ m.halted .xcvr = false ∧ m.pend = .byte ∧ m.phase.isMr = true ∧
       m.ack = some false) ∧
    (let d : Device := { slave 0x45 0xA8 0x2A with pend := .byte, ack := some true, txbyte := some 0x2A }
     d.ctrl.int = false ∧ d.phase.isSt = true ∧ d.pend = .byte ∧ d.ack = some true ∧
       d.txbyte = some 0x2A) ∧
    (slave 0x45 0xF8 0xFF).phase.isSt = false := by decide

/-- The hypotheses of both closed-bus runs. -/
theorem witness_closed_bus_runs :
    (closedOf (master 0x04 0xF8) (slave 0x45 0xF8 0xFF)).cfg.busMode = .closedBus ∧
    (let m := master 0x04 0xF8
     m.role = .master ∧ m.stage = .idle ∧ m.ctrl.int = false ∧ m.ctrl.sto = false ∧ m.pend = .none ∧
       m.phase = .noInfo ∧ m.faults = []) ∧
    (let d := slave 0x45 0xF8 0xFF
     d.role = .slave ∧ d.ctrl = Ctrl.ofByte standardCtrl 0x45 ∧
       d.pend = .none ∧ d.phase = .noInfo ∧ d.oadr = (0x2A : Addr) ++ 0#1 ∧ d.gie = true ∧
       d.faults = [] ∧ d.oadr.extractLsb' 1 7 ≠ (0x2C : Addr)) ∧
    (slave 0x45 0x60 0xFF).phase ≠ .noInfo ∧
    (let d : Device := { slave 0x45 0x80 0x52 with pend := .byte, ack := some true }
     d.role = .slave ∧ d.ctrl = Ctrl.ofByte standardCtrl 0x45 ∧ d.pend ≠ .none ∧ d.gie = true ∧ d.faults = []) ∧
    (closedOf (master 0x04 0xF8) (slave 0x45 0xF8 0xFF)).standard := by decide

/-- Vectors 8, rows 1 and 2: what the two runs end in. -/
theorem test_closed_bus_write_outcome :
    (match runTurns [.issue 0 .host 0xD02A5200, .engine 0, .joint, .engine 0, .engine 0, .engine 0,
        .joint, .handler 1, .engine 0, .engine 0, .engine 0, .engine 0, .joint, .handler 1, .engine 0,
        .engine 0, .engine 0, .joint, .handler 1]
        (closedOf (master 0x04 0xF8) (slave 0x45 0xF8 0xFF)) with
    | .next t => t.devs.map fun d => (d.ctrl.toByte standardCtrl, d.phase.code, d.eng.outcome, d.cell)
    | .fault _ | .refused _ => []) =
      [(0x04, 0xF8, some .success, 0x00), (0x45, 0xF8, none, 0x52)] := by decide

/-! The handler and the host. -/

theorem witness_HandlerRunsExactlyWhenItsInterruptIsTaken :
    (∀ d ∈ [slave 0xC5 0x60 0x54, slave 0xC5 0x70 0x54, slave 0xC5 0x80 0x54, slave 0xC5 0x90 0x54],
      d.role = .slave ∧ d.irq = true ∧ d.gie = true ∧ d.halted .handler = false) ∧
    (∀ d ∈ [slave 0xC5 0xA8 0x54, slave 0xC5 0xB8 0x54, slave 0xC5 0xC8 0x54, slave 0xC5 0xF8 0x54],
      d.role = .slave ∧ d.irq = true ∧ d.gie = true ∧ d.halted .handler = false) ∧
    (slave 0xC5 0xC8 0x54).phase.code ∉ ([0x60, 0x70, 0x80, 0x90, 0xA8, 0xB8] : List Byte) ∧
    (master 0xC5 0x60).role ≠ .slave ∧ (slave 0x45 0x60 0x54).ctrl.int = false ∧
    (slave 0xC4 0x60 0x54).ctrl.ie = false ∧ { slave 0xC5 0x60 0x54 with gie := false }.gie = false :=
  ⟨by decide, by decide, by decide⟩

theorem witness_ReceiveEventsKeepListening :
    (∀ d ∈ [slave 0xC5 0x60 0x54, slave 0xC5 0x70 0x54, slave 0xC5 0x80 0x52, slave 0xC5 0x90 0x52],
      d.ctrl.int = true ∧ d.ctrl.en = true) ∧
    (slave 0xC5 0x60 0x54).phase = .srSlaAck ∧ (slave 0xC5 0x70 0x54).phase = .srGcallAck ∧
    (slave 0xC5 0x80 0x52).phase = .srDataAck ∧ (slave 0xC5 0x90 0x52).phase = .srGcallDataAck := by decide

theorem witness_ReadRequestSendsTheResponseValue :
    (sysOf (slave 0xC5 0xA8 0x55)).devs[0]? = some (slave 0xC5 0xA8 0x55) ∧
    (slave 0xC5 0xA8 0x55).ctrl.int = true ∧ (slave 0xC5 0xA8 0x55).phase = .stSlaAck ∧
    (slave 0xC5 0xB8 0x55).ctrl.int = true ∧ (slave 0xC5 0xB8 0x55).phase = .stDataAck := by decide

theorem witness_OtherEventsRecover :
    (∀ d ∈ [slave 0xC5 0xC0 0x2A, slave 0xC5 0x08 0x2A],
      (sysOf d).devs[0]? = some d ∧ d.ctrl.int = true ∧ d.ctrl.en = true ∧ d.pend = .none) ∧
    (slave 0xC5 0xC0 0x2A).phase.code = 0xC0 ∧ (slave 0xC5 0xC0 0x2A).phase.isOwner = false ∧
    (slave 0xC5 0x08 0x2A).phase.code = 0x08 ∧ (slave 0xC5 0x08 0x2A).phase.isOwner = true := by decide

theorem witness_HandlerClearsTheEventOnce :
    (sysOf (slave 0xC5 0xF8 0x2A)).devs[0]? = some (slave 0xC5 0xF8 0x2A) ∧
    (slave 0xC5 0xF8 0x2A).handlerEnabled = true ∧ (slave 0xC5 0x00 0x2A).handlerEnabled = true ∧
    (slave 0xC5 0x00 0x2A).ctrl.ea = true := by decide

theorem witness_HostActions :
    (sysOf (slave 0x45 0xF8 0x2A)).devs[0]? = some (slave 0x45 0xF8 0x2A) ∧
    (slave 0x45 0xF8 0x2A).halted .host = false ∧ (slave 0x45 0xF8 0x2A).role = .slave ∧
    (0x01 : Byte) ≠ 0x00 ∧ (atStage .idle 0x04 0xF8).eng.outcome = none ∧
    { (atStage .idle 0x04 0xF8).eng with outcome := some .success }.outcome = some .success ∧
    (master 0x04 0xF8).halted .host = false ∧ (master 0x04 0xF8).role = .master ∧
    (master 0x04 0xF8).stage = .idle ∧ (atStage .wcFinish 0x84 0x28).stage ≠ .idle := by decide

theorem witness_ForegroundConsumesTheRequestAndRacesAreAdmitted :
    (let d : Device := { slave 0xC5 0x80 0x52 with cell := 0x52 }
     d.halted .host = false ∧ d.role = .slave ∧ d.handlerEnabled = true ∧ d.fg = .poll ∧
       d.cell = d.par.reqMarker) ∧
    (slave 0xC5 0x80 0x52).cell ≠ (slave 0xC5 0x80 0x52).par.reqMarker ∧
    (let d : Device := { slave 0xC5 0x80 0x52 with fg := .consume }
     d.halted .host = false ∧ d.handlerEnabled = true ∧ d.phase = .srDataAck ∧ d.fg = .consume) ∧
    (let d : Device := { slave 0xC5 0xA8 0x55 with fg := .refresh }
     d.halted .host = false ∧ d.handlerEnabled = true ∧ d.phase = .stSlaAck ∧ d.fg = .refresh) := by decide

/-! The invariants: a master that waits for the answer to its address byte, its slave at rest. -/

/-- The master at `WC.addr_wait`. -/
def waitingMaster : Device :=
  { master 0x04 0x08 with
    pend := .byte, txbyte := some 0x54, stage := .wcAddrWait
    eng := { Latches.unwritten with addr := some 0x2A, cmd := some 0x52 } }

theorem witness_State_Inv : (closedOf waitingMaster (slave 0x45 0xF8 0xFF)).Inv := by
  refine ⟨fun d hd => ?_, (fun k hk => by cases hk), by decide⟩
  have h : d = waitingMaster ∨ d = slave 0x45 0xF8 0xFF := by simpa [closedOf] using hd
  rcases h with rfl | rfl <;>
    exact ⟨⟨by decide, by decide, by decide, by decide, by decide, by decide, by decide⟩,
      by decide, by decide, by decide⟩

theorem witness_EveryStepKeepsTheInvariant :
    ∃ s s', s.Inv ∧ step s = .next s' ∧ s' ≠ s :=
  ⟨{ closedOf waitingMaster (slave 0x45 0xF8 0xFF) with inputs := [.joint] }, _, witness_State_Inv, rfl,
    by decide⟩

theorem witness_NoUnwrittenLatchIsRead :
    (∃ s', (closedOf (master 0x04 0xF8) (slave 0x45 0xF8 0xFF)).Inv ∧
      stepTurn (.host 0 .readOutcome) (closedOf (master 0x04 0xF8) (slave 0x45 0xF8 0xFF)) = .next s' ∧
      ∃ d' m, s'.devs[0]? = some d' ∧ m ∈ d'.faults ∧ m.reason = .unwrittenLatch) ∧
    ({ master 0x84 0x08 with stage := .wcAddrLoad }.eng.addr = none ∧
      { master 0x84 0x08 with stage := .wcAddrLoad }.halted .engine = false) ∧
    (let d : Device := { master 0x04 0x08 with pend := .byte }
     d.halted .xcvr = false ∧ d.ctrl.en = true ∧ d.ctrl.int = false ∧ d.ctrl.sto = false ∧
       d.txbyte = none ∧ d.phase.isAddr = true) ∧
    (let d : Device := { slave 0x45 0x60 0x54 with pend := .byte }
     d.halted .xcvr = false ∧ d.ctrl.sto = false ∧ d.ack = none ∧ d.phase.isAddressed = true) := by
  refine ⟨⟨_, ?_, rfl, _, _, rfl, List.mem_cons_self .., rfl⟩, by decide, by decide, by decide⟩
  refine ⟨fun d hd => ?_, (fun k hk => by cases hk), by decide⟩
  have h : d = master 0x04 0xF8 ∨ d = slave 0x45 0xF8 0xFF := by simpa [closedOf] using hd
  rcases h with rfl | rfl <;>
    exact ⟨⟨by decide, by decide, by decide, by decide, by decide, by decide, by decide⟩,
      by decide, by decide, by decide⟩

theorem witness_SlaveStaysArmed :
    Turn.joint.isDirect = false ∧ (closedOf waitingMaster (slave 0x45 0xF8 0xFF)).Inv ∧
    (∀ d ∈ (closedOf waitingMaster (slave 0x45 0xF8 0xFF)).devs, d.SlaveInv standardOadr) ∧
    ∃ s', stepTurn .joint (closedOf waitingMaster (slave 0x45 0xF8 0xFF)) = .next s' :=
  ⟨rfl, witness_State_Inv, by decide, _, rfl⟩

theorem witness_TransactionsNeverFault :
    ((sysOf (master 0x04 0xF8)).masterIssues (master 0x04 0xF8) ∧ (master 0x04 0xF8).busy = false ∧
      (master 0x04 0xF8).pend ≠ .stopThenStart) ∧
    ((sysOf { master 0x14 0x28 with pend := .stop }).masterIssues { master 0x14 0x28 with pend := .stop } ∧
      defaultConfig.overlap = .serialise) ∧
    (closedOf waitingMaster (slave 0x45 0xF8 0xFF)).Inv ∧ waitingMaster.role = .master ∧
    waitingMaster.stage.isWc = true ∧ waitingMaster.halted .engine = false ∧
    waitingMaster.TransInv closedConfig ∧
    ∃ s', stepTurn .joint (closedOf waitingMaster (slave 0x45 0xF8 0xFF)) = .next s' :=
  ⟨by decide, by decide, witness_State_Inv, rfl, rfl, by decide,
    .inr ⟨rfl, rfl, rfl, .inl rfl⟩, _, rfl⟩

theorem witness_WaitingEngineHasAnEnabledStep :
    (closedOf waitingMaster (slave 0x45 0xF8 0xFF)).standard ∧
    (closedOf waitingMaster (slave 0x45 0xF8 0xFF)).Inv ∧ waitingMaster.PrimitiveWaits ∧
    waitingMaster.TransInv closedConfig ∧ waitingMaster.ctrl.int = false ∧
    waitingMaster.stage ∈ [Stage.start2, .writeByte3, .readByte2, .wcStartWait, .wcAddrWait, .wcDataWait,
      .rrStartWait, .rrAddrWait, .rrReadWait] ∧ waitingMaster.phase.isOwner = true ∧
    { waitingMaster with stage := .writeByte3 }.PrimitiveWaits ∧
    { master 0x04 0xF8 with stage := .writeByte3 }.PrimitiveWaits :=
  ⟨rfl, witness_State_Inv, by decide, .inr ⟨rfl, rfl, rfl, .inl rfl⟩, rfl, by decide, by decide,
    by decide, by decide⟩

theorem witness_ClosedBusOutcomes :
    (closedOf waitingMaster (slave 0x45 0xF8 0xFF)).cfg.busMode = .closedBus ∧
    (∀ d ∈ (closedOf waitingMaster (slave 0x45 0xF8 0xFF)).devs,
      d.phase.code ∉ ([0x00, 0x38, 0x68, 0x78, 0xB0] : List Byte)) ∧
    (closedOf waitingMaster (slave 0x45 0xF8 0xFF)).Inv ∧ waitingMaster.ClosedTransInv ∧
    (∀ o, waitingMaster.eng.outcome = some o → o.onClosedBus) ∧
    ∃ s', stepTurn .joint (closedOf waitingMaster (slave 0x45 0xF8 0xFF)) = .next s' :=
  ⟨rfl, by decide, witness_State_Inv, .inr ⟨rfl, rfl, rfl, _, rfl, rfl⟩, fun _ h => (by cases h), _, rfl⟩

/-- A slave device of a closed bus, with its own parameters. -/
def slaveOne (ctrl phase : Byte) : Device := { slave ctrl phase 0xFF with par := defaultParams 1 }

theorem witness_slaveOne_of_bus (ctrl phase : Byte) : (slaveOne ctrl phase).IsSlaveOfBus standardOadr :=
  ⟨(fun h => by cases h), rfl, (fun _ _ h => by cases h), (fun _ h => by rcases h with h | h <;> cases h),
    fun _ => rfl⟩

theorem witness_ClosedBusKeepsItsOneMaster :
    (closedOf waitingMaster (slaveOne 0x45 0xF8)).ClosedSystem ∧
    (∃ s', stepTurn .joint (closedOf waitingMaster (slaveOne 0x45 0xF8)) = .next s') ∧
    Turn.configuresOwnAddress (closedOf waitingMaster (slaveOne 0x45 0xF8))
      (.issue 1 .host 0x202A0000) ∧
    decodeOp 0x202A0000 = .ok (.configureSlave 0x2A) ∧ decodeOp 0x30000000 = .ok .start ∧
    (slaveOne 0x45 0xF8).halted .host = false ∧ ParamsOk [defaultParams 0, defaultParams 1] := by
  have hp : ParamsOk [defaultParams 0, defaultParams 1] := by unfold ParamsOk; decide
  refine ⟨⟨rfl, hp, _, _, rfl, ⟨by decide, rfl, fun a h => by cases h⟩, fun d hd => ?_⟩, ⟨_, rfl⟩, ?_,
    by decide, by decide, by decide, hp⟩
  · obtain rfl : d = slaveOne 0x45 0xF8 := by simpa using hd
    exact witness_slaveOne_of_bus _ _
  · rintro k who w a d ⟨⟩ hw hd
    cases hw; cases hd; rfl

/-- A closed system in the middle of a read: the slave is addressed, its handler still to run. -/
def readingMaster : Device :=
  { master 0x84 0x40 with
    stage := .rrReadGo, data := 0x55, txbyte := some 0x55
    eng := { Latches.unwritten with addr := some 0x2A, code := some 0x40 } }

theorem witness_ClosedBusReadsReturnTheSlavesResponse :
    let s := closedOf readingMaster (slaveOne 0xC5 0xA8) (some 1)
    s.standard ∧ s.Inv ∧ s.ClosedSystem ∧ readingMaster.role = .master ∧
    (slaveOne 0xC5 0xA8).role = .slave ∧ readingMaster.ClosedTransInv ∧ s.ReadInv readingMaster ∧
    (∃ s', stepTurn (.handler 1) s = .next s') ∧
    State.ReadInv s { readingMaster with
      stage := .rrFinish, eng := { readingMaster.eng with byte := some 42 } } := by
  refine ⟨rfl, ⟨fun d hd => ?_, ?_, by decide⟩, ⟨rfl, by unfold ParamsOk; decide, _, _, rfl,
    ⟨by decide, rfl, fun a h => by cases h⟩, fun d hd => ?_⟩, rfl, rfl, ⟨rfl, rfl⟩,
    ⟨0, _, rfl, rfl, rfl, by decide⟩, ⟨_, rfl⟩, ⟨_, rfl, 0, _, rfl, rfl, rfl⟩⟩
  · have h : d = readingMaster ∨ d = slaveOne 0xC5 0xA8 := by simpa [closedOf] using hd
    rcases h with rfl | rfl <;>
      exact ⟨⟨by decide, by decide, by decide, by decide, by decide, by decide, by decide⟩,
        by decide, by decide, by decide⟩
  · rintro k ⟨⟩; decide
  · obtain rfl : d = slaveOne 0xC5 0xA8 := by simpa using hd
    exact witness_slaveOne_of_bus _ _

end Sys2Proof.Tests
end

namespace Sys2Proof.Machine

/-! ### What a device keeps: its parameters, its role and its marks (R7, R36, R44) -/

/-- What no turn but a reset takes from a device: `d'` has the parameters of `d`, its role unless `d` was
unconfigured, every fault mark of it, and the mark `refused` if `d` had it. -/
structure Device.Persists (d d' : Device) : Prop where
  par : d'.par = d.par
  role : d.role ≠ .unconfigured → d'.role = d.role
  faults : ∀ m, m ∈ d.faults → m ∈ d'.faults
  refused : d.refused = true → d'.refused = true

namespace Device.Persists

variable {d d' d'' : Device}

/-- An update of other fields keeps them. -/
theorem of_eq (hp : d'.par = d.par) (hr : d'.role = d.role) (hf : d'.faults = d.faults)
    (hm : d'.refused = d.refused) : d.Persists d' :=
  ⟨hp, fun _ => hr, fun _ h => hf ▸ h, fun h => hm ▸ h⟩

theorem refl (d : Device) : d.Persists d := of_eq rfl rfl rfl rfl

theorem trans (h : d.Persists d') (h' : d'.Persists d'') : d.Persists d'' where
  par := h'.par.trans h.par
  role hr := (h'.role (by rwa [h.role hr])).trans (h.role hr)
  faults m hm := h'.faults m (h.faults m hm)
  refused hm := h'.refused (h.refused hm)

theorem goto (h : d.Persists d') (st : Stage) : d.Persists (d'.goto st) :=
  h.trans (of_eq rfl rfl rfl rfl)

theorem event (h : d.Persists d') (code : Status) : d.Persists (d'.event code) :=
  h.trans (of_eq rfl rfl rfl rfl)

theorem writeCell (h : d.Persists d') (v : Byte) : d.Persists (writeCell v d') :=
  h.trans (of_eq rfl rfl rfl rfl)

theorem raise (h : d.Persists d') (r : FaultReason) (a : Agent) : d.Persists (d'.raise r a) :=
  h.trans ⟨rfl, fun _ => rfl, fun m hm => (d'.mem_raise r a m).mpr (.inr hm), id⟩

theorem refuse (h : d.Persists d') (r : RefuseReason) : d.Persists (d'.refuse r) :=
  h.trans ⟨rfl, fun _ => rfl, fun _ => id, fun _ => rfl⟩

/-- A device that gets the role it has, or that had none, keeps its role. -/
theorem setRole {r : Role} (h : d.Persists d') (hr : d.role = .unconfigured ∨ d.role = r) :
    d.Persists { d' with role := r } where
  par := h.par
  role hne := (hr.resolve_left hne).symm
  faults := h.faults
  refused := h.refused

theorem ite {c : Prop} [Decidable c] (h : d.Persists d') (h' : d.Persists d'') :
    d.Persists (if c then d' else d'') := by
  split
  · exact h
  · exact h'

end Device.Persists

/-- The device an effect leaves, if it leaves one, keeps what `d0` had. -/
def Eff.PersistsFrom (d0 : Device) : Eff → Prop
  | .done d => d0.Persists d
  | .fault _ d => d0.Persists d
  | .refuse _ => True

namespace Eff.PersistsFrom

variable {d0 d1 : Device} {e : Eff}

/-- An effect that begins at a later device. -/
theorem of_persists (h : d0.Persists d1) (he : e.PersistsFrom d1) : e.PersistsFrom d0 := by
  cases e with
  | done d => exact h.trans he
  | fault r d => exact h.trans he
  | refuse r => trivial

theorem map {f : Device → Device} (he : e.PersistsFrom d0)
    (hf : ∀ d, d0.Persists d → d0.Persists (f d)) : (e.map f).PersistsFrom d0 := by
  cases e with
  | done d => exact hf d he
  | fault r d => exact he
  | refuse r => trivial

/-- The device after the effect, be it done, a fault or a refusal (R345, R346). -/
theorem settle (he : e.PersistsFrom d0) (a : Agent) : d0.Persists (e.settle a d0) := by
  cases e with
  | done d => exact he
  | fault r d => exact he.raise r a
  | refuse r => exact (Device.Persists.refl d0).refuse r

theorem ite {c : Prop} [Decidable c] {e' : Eff} (h : e.PersistsFrom d0) (h' : e'.PersistsFrom d0) :
    (if c then e else e').PersistsFrom d0 := by
  split
  · exact h
  · exact h'

end Eff.PersistsFrom

/-! ### The shared operations -/

section
variable (cfg : Config) (d : Device)

theorem persists_ctrlWrite (v : Byte) : (ctrlWrite cfg v d).PersistsFrom d := by
  cases hw : ctrlWrite cfg v d with
  | done d' =>
    rw [ctrlWrite_frame cfg d hw]
    exact .of_eq rfl rfl rfl rfl
  | fault r d' => exact (ctrlWrite_fault cfg d hw).1 ▸ Device.Persists.refl d
  | refuse r => trivial

theorem persists_readData : d.Persists (readData d).2 := by
  unfold readData
  split <;> exact .of_eq rfl rfl rfl rfl

theorem persists_writeData (v : Byte) : d.Persists (writeData v d) :=
  .ite (.of_eq rfl rfl rfl rfl) (.of_eq rfl rfl rfl rfl)

/-! ### The engine's stages -/

theorem persists_ctrlThen (v : Byte) (next : Stage) : (ctrlThen cfg v next d).PersistsFrom d :=
  (persists_ctrlWrite cfg d v).map fun _ h => h.goto next

theorem persists_hold (next : Stage) : (hold next d).PersistsFrom d :=
  Device.Persists.ite ((Device.Persists.refl d).goto next) (.refl d)

theorem persists_loadThen (v : Byte) (next : Stage) : (loadThen v next d).PersistsFrom d :=
  (persists_writeData d v).goto next

theorem persists_stopWith (o : EngOutcome) : (stopWith cfg o d).PersistsFrom d :=
  (persists_ctrlWrite cfg d _).map fun _ h => h.trans (.of_eq rfl rfl rfl rfl)

theorem persists_readTest (C : Chip) : (readTest C d).PersistsFrom d :=
  (persists_readData d).trans (.of_eq rfl rfl rfl rfl)

theorem persists_configureMasterLine1 (presc : Byte) (scl : BitVec 16) :
    (configureMasterLine1 cfg presc scl d).PersistsFrom d :=
  .ite trivial (.ite trivial (.ite trivial (.ite trivial ((Device.Persists.refl d).goto _))))

theorem persists_configureSlaveLine1 (a : Addr) : (configureSlaveLine1 a d).PersistsFrom d :=
  .ite trivial (.ite trivial (.ite trivial ((Device.Persists.refl d).goto _)))

theorem persists_setAckLine1 (L : CtrlLayout) (a : Bool) : (setAckLine1 L a d).PersistsFrom d :=
  .ite trivial ((Device.Persists.refl d).goto _)

variable {d}

theorem persists_withLatch {α : Type} {o : Option α} {f : α → Eff} (hf : ∀ a, (f a).PersistsFrom d) :
    (withLatch o f d).PersistsFrom d := by
  cases o with
  | some a => exact hf a
  | none => exact .refl d

theorem persists_lastLine {line : Device → Eff} (h : (line d).PersistsFrom d) :
    (lastLine line d).PersistsFrom d :=
  h.map fun _ h => h.goto .idle

/-- The lines of the primitives that a handler issues too. -/
theorem persists_line {i : Instr} {op : OpKind} {line : Device → Eff} (hl : IsLine cfg i op line) :
    (line d).PersistsFrom d := by
  cases hl with
  | stop | armForReply | clearEvent | recover => exact persists_ctrlWrite cfg d _
  | loadData b => exact persists_writeData d b
  | readData => exact (persists_readData d).trans (.of_eq rfl rfl rfl rfl)
  | readStatus => exact .of_eq rfl rfl rfl rfl

/-- A stage of the engine (R40). The last line of a configure gives the device its role, so there the
device must have that role or none (R36). -/
theorem persists_runStage
    (hM : d.stage = .configureMaster4 → d.role = .unconfigured ∨ d.role = .master)
    (hS : d.stage = .configureSlave3 → d.role = .unconfigured ∨ d.role = .slave) :
    (runStage cfg d).PersistsFrom d := by
  unfold runStage
  cases hst : d.stage with
  | idle => exact .refl d
  | configureMaster1 presc scl => exact persists_configureMasterLine1 cfg d presc scl
  | configureSlave1 a => exact persists_configureSlaveLine1 d a
  | setAck1 a => exact persists_setAckLine1 d _ a
  | configureMaster4 =>
    exact (persists_ctrlWrite cfg d _).map fun _ h => (h.setRole (hM hst)).goto .idle
  | configureSlave3 =>
    exact (persists_ctrlWrite cfg d _).map fun _ h => (h.setRole (hS hst)).goto .idle
  | start1 | writeByte2 | readByte1 | setAck2 | wcStartGo | wcAddrGo | wcDataGo | rrStartGo | rrAddrGo
  | rrReadGo => exact persists_ctrlThen cfg d _ _
  | start2 | writeByte3 | readByte2 | wcStartWait | wcAddrWait | wcDataWait | rrStartWait | rrAddrWait
  | rrReadWait => exact persists_hold d _
  | stop1 => exact persists_lastLine (persists_line cfg .stop)
  | armForReply1 => exact persists_lastLine (persists_line cfg .armForReply)
  | loadData1 b => exact persists_lastLine (persists_line cfg (.loadData b))
  | readData1 => exact persists_lastLine (persists_line cfg .readData)
  | clearEvent1 => exact persists_lastLine (persists_line cfg .clearEvent)
  | recover1 => exact persists_lastLine (persists_line cfg .recover)
  | readStatus1 => exact persists_lastLine (persists_line cfg .readStatus)
  | writeByte1 => exact persists_loadThen d _ _
  | readByte4 => exact (persists_readData d).trans (.of_eq rfl rfl rfl rfl)
  | wcAddrLoad | wcDataLoad | rrAddrLoad => exact persists_withLatch fun _ => persists_loadThen d _ _
  | wcFinish => exact persists_stopWith cfg d _
  | wcAbort | rrFinish | rrAbort => exact persists_withLatch fun _ => persists_stopWith cfg d _
  | rrReadTest => exact persists_readTest d _
  | configureMaster2 | configureMaster3 | configureSlave2 | writeByte4 | readByte3 | wcIssue | rrIssue
  | wcAddrTest | wcDataTest | rrAddrTest => exact .of_eq rfl rfl rfl rfl

/-- An engine's stage that fits the device's role (R215). -/
theorem persists_runStage_of_roleInv (h : d.RoleInv) : (runStage cfg d).PersistsFrom d := by
  obtain ⟨-, hslave, hmaster⟩ := h
  refine persists_runStage cfg (fun hst => ?_) (fun hst => ?_)
  · cases hr : d.role with
    | slave => simpa [hst, Stage.isConfigureSlave] using hslave hr
    | unconfigured | master => simp
  · cases hr : d.role with
    | master => simpa [hst, Stage.isConfigureSlave] using hmaster hr
    | unconfigured | slave => simp

/-- Line 1 of an operation sets no role. -/
theorem persists_issueLine1 {i : Instr} {op : OpKind} {st : Stage} (h : IsLine1 i op st) :
    d.Persists (issueLine1 cfg st d) := by
  have hne : st ≠ .configureMaster4 ∧ st ≠ .configureSlave3 := by cases h <;> simp
  have hrun : (runStage cfg (d.goto st)).PersistsFrom (d.goto st) :=
    persists_runStage cfg (fun hst => absurd hst hne.1) (fun hst => absurd hst hne.2)
  exact (Eff.PersistsFrom.of_persists ((Device.Persists.refl d).goto st) hrun).settle .engine

/-- An operation (R215). -/
theorem OpMove.persists {k : Nat} {who : Issuer} {i : Instr} {d' : Device}
    (h : OpMove cfg k who i d d') : d.Persists d' := by
  cases h with
  | refused r => exact (Device.Persists.refl d).refuse r
  | line1 op st hst => exact persists_issueLine1 cfg hst
  | handlerLine op line hl => exact (persists_line cfg hl).settle .handler

/-! ### The handler, the host and the transceiver -/

/-- One invocation of the handler (R281). -/
theorem persists_handlerInvocation {action : Device → Eff} (ha : IsAction cfg action) :
    (handlerInvocation action d).PersistsFrom d := by
  have htake : d.Persists (takeInterrupt d) := .of_eq rfl rfl rfl rfl
  have hact : (action (takeInterrupt d)).PersistsFrom (takeInterrupt d) := by
    cases ha with
    | addrW | other => exact persists_ctrlWrite cfg _ _
    | dataRx =>
      exact (persists_ctrlWrite cfg _ _).of_persists ((persists_readData _).writeCell _)
    | dataReq => exact (persists_ctrlWrite cfg _ _).of_persists (persists_writeData _ _)
  exact (hact.of_persists htake).map fun _ h => h.trans (.of_eq rfl rfl rfl rfl)

end

section
variable (d : Device)

theorem persists_hostAct (a : HostAct) : d.Persists (hostAct a d) := by
  have hself := Device.Persists.refl d
  unfold hostAct
  cases a with
  | readOutcome =>
    refine .ite (hself.refuse _) ?_
    split
    · exact hself.refuse _
    · exact .of_eq rfl rfl rfl rfl
    · exact hself.raise _ _
  | cellRead | respWrite | setGie => exact .ite (hself.refuse _) (.of_eq rfl rfl rfl rfl)
  | cellWrite => exact .ite (hself.refuse _) (.ite (.of_eq rfl rfl rfl rfl) (hself.refuse _))
  | respWriteWide => exact hself.refuse _
  | poll | consume | refresh => exact .ite (hself.refuse _) (.ite hself (.of_eq rfl rfl rfl rfl))

theorem persists_readRegister (C : Chip) (r : Option Reg) : d.Persists (readRegister C r d) := by
  unfold readRegister
  split
  case h_4 => exact (persists_readData d).trans (.of_eq rfl rfl rfl rfl)
  case h_6 => exact (Device.Persists.refl d).refuse _
  all_goals exact .of_eq rfl rfl rfl rfl

theorem persists_writeRegister (L : StatLayout) (r : Option Reg) (v : Byte) :
    d.Persists (writeRegister L r v d) := by
  unfold writeRegister
  split
  case h_4 => exact persists_writeData d v
  case h_5 | h_6 => exact (Device.Persists.refl d).refuse _
  all_goals exact .of_eq rfl rfl rfl rfl

variable {d}

theorem persists_drawn {go : Device} (codes : Option (List Status)) (code : Status) (h : d.Persists go) :
    d.Persists (drawn codes code d go) := by
  unfold drawn
  split
  · exact .ite h (.refl d)
  · exact (Device.Persists.refl d).raise _ _

theorem persists_xcvrStep (O : OadrLayout) (code : Status) (b : Byte) :
    d.Persists (xcvrStep O code b d) := by
  have hself := Device.Persists.refl d
  have hbyte : d.Persists { d with data := b } := .of_eq rfl rfl rfl rfl
  have hcomplete : d.Persists (complete code b d) := (Device.Persists.ite hbyte hself).event code
  have hstop : d.Persists (executeStop d) := .of_eq rfl rfl rfl rfl
  have hevent : d.Persists (slaveEvent code b d) := (Device.Persists.ite hbyte hself).event code
  exact .ite hself (.ite (persists_drawn _ _ hcomplete) (.ite hstop
    (.ite (persists_drawn _ _ hevent) hself)))

theorem JointMaster.persists {d' : Device} (h : JointMaster d d') : d.Persists d' := by
  cases h <;> exact .of_eq rfl rfl rfl rfl

theorem JointSlave.persists {O : OadrLayout} {d' : Device} (h : JointSlave O d d') : d.Persists d' := by
  cases h <;> exact .of_eq rfl rfl rfl rfl

end

/-- Every move but a reset (R44). -/
theorem Move.persists {s : State} {k : Nat} {d d' : Device} {t : Turn} (h : Move s k d t d')
    (ht : t.isReset = false) (hr : d.RoleInv) : d.Persists d' := by
  have hself := Device.Persists.refl d
  cases h with
  | stay => exact hself
  | illegal | directRefused => exact hself.refuse _
  | issue who w i _ hm hi h => exact h.persists
  | engine => exact (persists_runStage_of_roleInv s.cfg hr).settle .engine
  | handler action ha => exact (persists_handlerInvocation s.cfg ha).settle .handler
  | hostAct a => exact persists_hostAct d a
  | directRead => exact persists_readRegister d _ _
  | directWrite => exact persists_writeRegister d _ _ _
  | directCtrl off v v' => exact (persists_ctrlWrite s.cfg d v').settle .host
  | xcvr => exact persists_xcvrStep _ _ _
  | jointMaster _ hb hk he hi h => exact h.persists
  | jointSlave _ hb hk hi h => exact h.persists
  | jointFault => exact hself.raise _ _
  | reset | resetAll => cases ht

/-- Settles O14: every move but a reset keeps the parameters, the role and the marks of its device. -/
theorem rolesMarksAndParametersStay : Obligations.RolesMarksAndParametersStay := by
  intro s s' t k d ht hstep hd hr
  obtain ⟨hcfg, hlen, -, hmoves⟩ := turn_moves hstep
  obtain ⟨d', hd', hmove⟩ := hmoves k d hd
  obtain ⟨hpar, hrole, hfaults, hrefused⟩ := hmove.persists ht hr
  exact ⟨hcfg, hlen, d', hd', hpar, hrole, hfaults, hrefused⟩

end Sys2Proof.Machine

namespace Sys2Proof.Machine

/-! ### The engine's part of the invariant: stage, role and latches (R36, R40, R41, R215) -/

/-- The stage of a device fits its latches and its role. -/
structure Device.EngineInv (d : Device) : Prop where
  latch : d.LatchInv
  role : d.RoleInv

/-- `d'` stands where `d` stands: at its stage, with its role, its latches and its marks. -/
structure Device.SameEngine (d d' : Device) : Prop where
  stage : d'.stage = d.stage
  role : d'.role = d.role
  eng : d'.eng = d.eng
  faults : d'.faults = d.faults

/-- `d'` meets the engine's part of the invariant and has the marks of `d`. -/
structure Device.KeepsEngine (d d' : Device) : Prop where
  inv : d'.EngineInv
  faults : d'.faults = d.faults

section
variable {d d' d'' : Device}

theorem Device.SameEngine.refl (d : Device) : d.SameEngine d := ⟨rfl, rfl, rfl, rfl⟩

theorem Device.SameEngine.trans (h : d.SameEngine d') (h' : d'.SameEngine d'') : d.SameEngine d'' :=
  ⟨h'.stage.trans h.stage, h'.role.trans h.role, h'.eng.trans h.eng, h'.faults.trans h.faults⟩

theorem Device.SameEngine.ite {c : Prop} [Decidable c] (h : d.SameEngine d') (h' : d.SameEngine d'') :
    d.SameEngine (if c then d' else d'') := by
  split
  · exact h
  · exact h'

/-- The engine's part of the invariant reads the stage, the role and the latches only. -/
theorem Device.EngineInv.of_same (h : d.EngineInv) (hs : d.SameEngine d') : d'.EngineInv := by
  obtain ⟨hlatch, hrole⟩ := h
  constructor
  · rwa [Device.LatchInv, hs.stage, hs.eng]
  · rwa [Device.RoleInv, hs.stage, hs.role]

theorem Device.EngineInv.keeps (h : d.EngineInv) (hs : d.SameEngine d') : d.KeepsEngine d' :=
  ⟨h.of_same hs, hs.faults⟩

theorem Device.EngineInv.raise (h : d.EngineInv) (r : FaultReason) (a : Agent) : (d.raise r a).EngineInv :=
  ⟨h.latch, h.role⟩

/-- At `Idle` the engine reads no latch, whatever the role. -/
theorem engineInv_of_idle (h : d.stage = .idle) : d.EngineInv := by
  constructor
  · simp [Device.LatchInv, h, Stage.isWc, Stage.isRr]
  · simp [Device.RoleInv, h, Stage.isConfigureSlave]

/-- The stages that end a master's operation by the code it has read (R246, R247). -/
def Stage.isAbort : Stage → Bool
  | .wcAbort | .rrAbort => true
  | _ => false

/-- `next` is `Idle` or a later stage of the operation whose stage `st` is. -/
def Stage.leadsTo (st next : Stage) : Bool :=
  next == .idle ||
    (st != .idle && !(next matches .configureSlave1 _) && next.isWc == st.isWc &&
      next.isRr == st.isRr && next.isConfigureMaster == st.isConfigureMaster &&
      next.isConfigureSlave == st.isConfigureSlave)

/-- The engine goes on in its operation; the stages that end it with what it has read need that latch. -/
theorem Device.EngineInv.goto {next : Stage} (h : d.EngineInv) (hn : d.stage.leadsTo next = true)
    (hcode : next.isAbort = true → d.eng.code.isSome = true)
    (hbyte : next = .rrFinish → d.eng.byte.isSome = true) : (d.goto next).EngineInv := by
  obtain ⟨⟨hwc, hrr, -, -⟩, hunconf, hslave, hmaster⟩ := h
  by_cases hidle : next = .idle
  · exact engineInv_of_idle hidle
  · simp only [Stage.leadsTo, Bool.or_eq_true, beq_iff_eq, hidle, false_or, Bool.and_eq_true,
      bne_iff_ne, Bool.not_eq_true'] at hn
    obtain ⟨⟨⟨⟨⟨hst, hcs1⟩, hnwc⟩, hnrr⟩, hncm⟩, hncs⟩ := hn
    constructor
    · refine ⟨fun hx => hwc (hnwc ▸ hx), fun hx => hrr (hnrr ▸ hx), fun hx => hcode ?_, hbyte⟩
      rcases hx with hx | hx <;> cases hx <;> rfl
    · refine ⟨fun hr => .inr ?_, fun hr => .inr ?_, fun hr => ⟨?_, ?_⟩⟩
      · simpa [hncm, hncs] using (hunconf hr).resolve_left hst
      · simpa [hncs] using (hslave hr).resolve_left hst
      · exact hncs.trans (hmaster hr).1
      · rintro a rfl
        cases hcs1

end

/-! ### What an effect leaves -/

/-- The device an effect leaves, if it leaves one, meets `P`; and it is no read of an unwritten latch. -/
def Eff.Leaves (P : Device → Prop) : Eff → Prop
  | .done d => P d
  | .fault r d => r ≠ .unwrittenLatch ∧ P d
  | .refuse _ => True

section
variable {P Q : Device → Prop} {e : Eff}

theorem Eff.Leaves.mono (h : e.Leaves P) (hPQ : ∀ d, P d → Q d) : e.Leaves Q := by
  cases e with
  | done d => exact hPQ d h
  | fault r d => exact ⟨h.1, hPQ d h.2⟩
  | refuse r => trivial

theorem Eff.Leaves.map {f : Device → Device} (h : e.Leaves P) (hf : ∀ d, P d → Q (f d))
    (hPQ : ∀ d, P d → Q d) : (e.map f).Leaves Q := by
  cases e with
  | done d => exact hf d h
  | fault r d => exact ⟨h.1, hPQ d h.2⟩
  | refuse r => trivial

theorem Eff.Leaves.ite {c : Prop} [Decidable c] {e' : Eff} (h : c → e.Leaves P)
    (h' : ¬ c → e'.Leaves P) : (if c then e else e').Leaves P := by
  split
  · exact h ‹_›
  · exact h' ‹_›

end

/-! ### The operations that leave the engine alone -/

section
variable (cfg : Config) (d : Device)

theorem ctrlWrite_sameEngine (v : Byte) : (ctrlWrite cfg v d).Leaves d.SameEngine := by
  cases hw : ctrlWrite cfg v d with
  | done d' => rw [ctrlWrite_frame cfg d hw]; exact ⟨rfl, rfl, rfl, rfl⟩
  | fault r d' =>
    obtain ⟨rfl, hr⟩ := ctrlWrite_fault cfg d hw
    exact ⟨hr, .refl _⟩
  | refuse r => trivial

theorem readData_sameEngine : d.SameEngine (readData d).2 := by
  unfold readData
  split <;> exact ⟨rfl, rfl, rfl, rfl⟩

theorem writeData_sameEngine (v : Byte) : d.SameEngine (writeData v d) :=
  .ite ⟨rfl, rfl, rfl, rfl⟩ ⟨rfl, rfl, rfl, rfl⟩

/-- The single-line primitives. -/
theorem line_sameEngine {i : Instr} {op : OpKind} {line : Device → Eff} (hl : IsLine cfg i op line) :
    (line d).Leaves d.SameEngine := by
  cases hl with
  | stop | armForReply | clearEvent | recover => exact ctrlWrite_sameEngine cfg d _
  | loadData b => exact writeData_sameEngine d b
  | readData => exact (readData_sameEngine d).trans ⟨rfl, rfl, rfl, rfl⟩
  | readStatus => exact ⟨rfl, rfl, rfl, rfl⟩

/-- One invocation of the handler (R281). -/
theorem handlerInvocation_sameEngine {action : Device → Eff} (ha : IsAction cfg action) :
    (handlerInvocation action d).Leaves d.SameEngine := by
  have htake : d.SameEngine (takeInterrupt d) := ⟨rfl, rfl, rfl, rfl⟩
  have hact : (action (takeInterrupt d)).Leaves d.SameEngine := by
    cases ha with
    | addrW | other => exact (ctrlWrite_sameEngine cfg _ _).mono fun _ h => htake.trans h
    | dataRx =>
      have hcell : d.SameEngine (writeCell (readData (takeInterrupt d)).1 (readData (takeInterrupt d)).2) :=
        (htake.trans (readData_sameEngine _)).trans ⟨rfl, rfl, rfl, rfl⟩
      exact (ctrlWrite_sameEngine cfg _ _).mono fun _ h => hcell.trans h
    | dataReq =>
      have hload := htake.trans (writeData_sameEngine (takeInterrupt d) (takeInterrupt d).resp)
      exact (ctrlWrite_sameEngine cfg _ _).mono fun _ h => hload.trans h
  exact hact.map (fun _ h => h.trans ⟨rfl, rfl, rfl, rfl⟩) fun _ h => h

end

/-! ### The engine's stages -/

section
variable (cfg : Config) {d : Device} (h : d.EngineInv)
include h

/-- The engine goes on in its operation after a step that left it alone. -/
theorem keepsEngine_goto {d' : Device} {next : Stage} (hs : d.SameEngine d')
    (hn : d.stage.leadsTo next = true) (hcode : next.isAbort = false) (hbyte : next ≠ .rrFinish) :
    d.KeepsEngine (d'.goto next) := by
  refine ⟨(h.of_same hs).goto (hs.stage ▸ hn) (fun hx => ?_) fun hx => absurd hx hbyte, hs.faults⟩
  rw [hcode] at hx
  cases hx

theorem ctrlThen_keepsEngine (v : Byte) {next : Stage} (hn : d.stage.leadsTo next = true)
    (hcode : next.isAbort = false) (hbyte : next ≠ .rrFinish) :
    (ctrlThen cfg v next d).Leaves d.KeepsEngine :=
  (ctrlWrite_sameEngine cfg d v).map (fun _ hs => keepsEngine_goto h hs hn hcode hbyte)
    fun _ hs => h.keeps hs

theorem hold_keepsEngine {next : Stage} (hn : d.stage.leadsTo next = true)
    (hcode : next.isAbort = false) (hbyte : next ≠ .rrFinish) : (hold next d).Leaves d.KeepsEngine := by
  unfold hold
  split
  · exact keepsEngine_goto h (.refl d) hn hcode hbyte
  · exact h.keeps (.refl d)

/-- A step that ends an operation. -/
theorem keepsEngine_toIdle {e : Eff} (he : e.Leaves d.SameEngine) {f : Device → Device}
    (hf : ∀ x, (f x).stage = .idle ∧ (f x).faults = x.faults) : (e.map f).Leaves d.KeepsEngine :=
  he.map (fun x hs => ⟨engineInv_of_idle (hf x).1, (hf x).2.trans hs.faults⟩) fun _ hs => h.keeps hs

theorem lastLine_keepsEngine {i : Instr} {op : OpKind} {line : Device → Eff}
    (hl : IsLine cfg i op line) : (lastLine line d).Leaves d.KeepsEngine :=
  keepsEngine_toIdle h (line_sameEngine cfg d hl) fun _ => ⟨rfl, rfl⟩

theorem stopWith_keepsEngine (o : EngOutcome) : (stopWith cfg o d).Leaves d.KeepsEngine :=
  keepsEngine_toIdle h (ctrlWrite_sameEngine cfg d _) fun _ => ⟨rfl, rfl⟩

/-- A `_test` stage latches the code its `abort` stage reads (R241, R245). -/
theorem testCode_keepsEngine (C : Chip) (acc : List Status) {good bad : Stage}
    (hgood : d.stage.leadsTo good = true) (hbad : d.stage.leadsTo bad = true)
    (hg : good ≠ .rrFinish) (hb : bad ≠ .rrFinish) : (testCode C acc good bad d).Leaves d.KeepsEngine := by
  have hlatched : ({ d with eng := { d.eng with code := some (d.statusCode C) } } : Device).EngineInv := by
    obtain ⟨⟨hwc, hrr, -, hbyte⟩, hrole⟩ := h
    exact ⟨⟨hwc, hrr, fun _ => rfl, hbyte⟩, hrole⟩
  unfold testCode
  split
  · exact ⟨hlatched.goto hgood (fun _ => rfl) fun hx => absurd hx hg, rfl⟩
  · exact ⟨hlatched.goto hbad (fun _ => rfl) fun hx => absurd hx hb, rfl⟩

/-- `RR.read_test` latches the code and the byte that the stages after it read (R247). -/
theorem readTest_keepsEngine (C : Chip) (hst : d.stage = .rrReadTest) :
    (readTest C d).Leaves d.KeepsEngine := by
  have hsame := readData_sameEngine d
  have hlatched : ({ (readData d).2 with
      eng := { (readData d).2.eng with code := some (d.statusCode C), byte := some (readData d).1 } } :
      Device).EngineInv := by
    obtain ⟨⟨hwc, hrr, -, -⟩, hrole⟩ := h.of_same hsame
    exact ⟨⟨hwc, hrr, fun _ => rfl, fun _ => rfl⟩, hrole⟩
  have hleads : ∀ {next : Stage}, Stage.rrReadTest.leadsTo next = true →
      (readData d).2.stage.leadsTo next = true := fun hn => by rwa [hsame.stage, hst]
  unfold readTest
  dsimp only
  split <;> exact ⟨hlatched.goto (hleads rfl) (fun _ => rfl) fun _ => rfl, hsame.faults⟩

omit h in
theorem withLatch_keepsEngine {α : Type} {o : Option α} {f : α → Eff} (ho : o.isSome = true)
    (hf : ∀ a, (f a).Leaves d.KeepsEngine) : (withLatch o f d).Leaves d.KeepsEngine := by
  obtain ⟨a, rfl⟩ := Option.isSome_iff_exists.mp ho
  exact hf a

end

/-- Line 1 of `configure_master` checks the role itself (R200). -/
theorem configureMasterLine1_keepsEngine (cfg : Config) (presc : Byte) (scl : BitVec 16) (d : Device) :
    (configureMasterLine1 cfg presc scl d).Leaves d.KeepsEngine := by
  unfold configureMasterLine1
  refine .ite (fun _ => trivial) fun hr => .ite (fun _ => trivial) fun _ => .ite (fun _ => trivial)
    fun _ => .ite (fun _ => trivial) fun _ => ⟨⟨?_, ?_⟩, rfl⟩
  · simp [Device.LatchInv, Stage.isWc, Stage.isRr]
  · simp [Device.RoleInv, Stage.isConfigureMaster, Stage.isConfigureSlave, hr]

/-- Line 1 of `configure_slave` checks the role itself (R201). -/
theorem configureSlaveLine1_keepsEngine (a : Addr) (d : Device) :
    (configureSlaveLine1 a d).Leaves d.KeepsEngine := by
  unfold configureSlaveLine1
  refine .ite (fun _ => trivial) fun hr => .ite (fun _ => trivial) fun _ => .ite (fun _ => trivial)
    fun _ => ⟨⟨?_, ?_⟩, rfl⟩
  · simp [Device.LatchInv, Stage.isWc, Stage.isRr]
  · simp [Device.RoleInv, Stage.isConfigureSlave, hr]

/-- A stage that no configure and no `Idle` has is a master's (R215). -/
theorem Device.RoleInv.master {d : Device} (h : d.RoleInv) (hidle : d.stage ≠ .idle)
    (hm : d.stage.isConfigureMaster = false) (hs : d.stage.isConfigureSlave = false) :
    d.role = .master := by
  obtain ⟨hunconf, hslave, -⟩ := h
  cases hr : d.role with
  | master => rfl
  | unconfigured => simpa [hidle, hm, hs] using hunconf hr
  | slave => simpa [hidle, hs] using hslave hr

/-- `issue` latches the operands of a master's operation (R246, R247). -/
theorem latchOperands_keepsEngine {d : Device} (hr : d.role = .master) {latch : Latches → Latches}
    {first : Stage} (hf : first = .wcStartGo ∧ (latch d.eng).addr.isSome = true ∧
      (latch d.eng).cmd.isSome = true ∨ first = .rrStartGo ∧ (latch d.eng).addr.isSome = true) :
    (latchOperands latch first d).Leaves d.KeepsEngine := by
  refine ⟨⟨?_, ?_⟩, rfl⟩
  · rcases hf with ⟨rfl, ha, hc⟩ | ⟨rfl, ha⟩ <;> simp [Device.LatchInv, Stage.isWc, Stage.isRr, *]
  · rcases hf with ⟨rfl, -⟩ | ⟨rfl, -⟩ <;> simp [Device.RoleInv, Stage.isConfigureSlave, hr]

/-- A stage of the engine (R40): it keeps the engine's part of the invariant and reads no unwritten
latch. -/
theorem runStage_keepsEngine (cfg : Config) {d : Device} (h : d.EngineInv) :
    (runStage cfg d).Leaves d.KeepsEngine := by
  have hself := Device.SameEngine.refl d
  obtain ⟨hwc, hrr, hcode, hbyte⟩ := h.latch
  have hmaster := h.role.master
  unfold runStage
  cases hst : d.stage with
  | idle => exact h.keeps hself
  | configureMaster1 presc scl => exact configureMasterLine1_keepsEngine cfg presc scl d
  | configureSlave1 a => exact configureSlaveLine1_keepsEngine a d
  | configureMaster4 | configureSlave3 =>
    exact keepsEngine_toIdle h (ctrlWrite_sameEngine cfg d _) fun _ => ⟨rfl, rfl⟩
  | configureMaster2 | configureMaster3 | configureSlave2 | writeByte4 | readByte3 =>
    exact keepsEngine_goto h ⟨rfl, rfl, rfl, rfl⟩ (by rw [hst]; rfl) rfl nofun
  | start1 | writeByte2 | readByte1 | setAck2 | wcStartGo | wcAddrGo | wcDataGo | rrStartGo | rrAddrGo
  | rrReadGo => exact ctrlThen_keepsEngine cfg h _ (by rw [hst]; rfl) rfl nofun
  | start2 | writeByte3 | readByte2 | wcStartWait | wcAddrWait | wcDataWait | rrStartWait | rrAddrWait
  | rrReadWait => exact hold_keepsEngine h (by rw [hst]; rfl) rfl nofun
  | stop1 => exact lastLine_keepsEngine cfg h .stop
  | armForReply1 => exact lastLine_keepsEngine cfg h .armForReply
  | loadData1 b => exact lastLine_keepsEngine cfg h (.loadData b)
  | readData1 => exact lastLine_keepsEngine cfg h .readData
  | clearEvent1 => exact lastLine_keepsEngine cfg h .clearEvent
  | recover1 => exact lastLine_keepsEngine cfg h .recover
  | readStatus1 => exact lastLine_keepsEngine cfg h .readStatus
  | setAck1 a =>
    exact .ite (fun _ => trivial) fun _ => keepsEngine_goto h hself (by rw [hst]; rfl) rfl nofun
  | writeByte1 b => exact keepsEngine_goto h (writeData_sameEngine d b) (by rw [hst]; rfl) rfl nofun
  | readByte4 code =>
    exact keepsEngine_goto h ((readData_sameEngine d).trans ⟨rfl, rfl, rfl, rfl⟩) (by rw [hst]; rfl)
      rfl nofun
  | wcIssue a b =>
    exact latchOperands_keepsEngine (hmaster (by simp [hst]) (by rw [hst]; rfl) (by rw [hst]; rfl))
      (.inl ⟨rfl, rfl, rfl⟩)
  | rrIssue a =>
    exact latchOperands_keepsEngine (hmaster (by simp [hst]) (by rw [hst]; rfl) (by rw [hst]; rfl))
      (.inr ⟨rfl, rfl⟩)
  | wcAddrLoad =>
    exact withLatch_keepsEngine (hwc (by rw [hst]; rfl)).1 fun a =>
      keepsEngine_goto h (writeData_sameEngine d _) (by rw [hst]; rfl) rfl nofun
  | wcDataLoad =>
    exact withLatch_keepsEngine (hwc (by rw [hst]; rfl)).2 fun a =>
      keepsEngine_goto h (writeData_sameEngine d _) (by rw [hst]; rfl) rfl nofun
  | rrAddrLoad =>
    exact withLatch_keepsEngine (hrr (by rw [hst]; rfl)) fun a =>
      keepsEngine_goto h (writeData_sameEngine d _) (by rw [hst]; rfl) rfl nofun
  | wcAddrTest | wcDataTest | rrAddrTest =>
    exact testCode_keepsEngine h _ _ (by rw [hst]; rfl) (by rw [hst]; rfl) nofun nofun
  | rrReadTest => exact readTest_keepsEngine h _ hst
  | wcFinish => exact stopWith_keepsEngine cfg h _
  | wcAbort =>
    exact withLatch_keepsEngine (hcode (.inl hst)) fun _ => stopWith_keepsEngine cfg h _
  | rrAbort =>
    exact withLatch_keepsEngine (hcode (.inr hst)) fun _ => stopWith_keepsEngine cfg h _
  | rrFinish => exact withLatch_keepsEngine (hbyte hst) fun _ => stopWith_keepsEngine cfg h _

end Sys2Proof.Machine

namespace Sys2Proof.Machine

/-! ### The marks a step adds (R44, R345) -/

/-- `d'` has no mark twice if `d` has none, and the marks of `d` and new ones that meet `ok`. -/
structure Device.AddsMarks (ok : FaultMark → Prop) (d d' : Device) : Prop where
  nodup : d.faults.Nodup → d'.faults.Nodup
  mem : ∀ m ∈ d'.faults, m ∈ d.faults ∨ ok m

/-- The marks a turn may add to device `k`: none of a transceiver, and that of an unwritten latch only
where a master's host asks for an outcome that is not there yet (R41, R370). -/
def NewMark (t : Turn) (k : Nat) (d : Device) (m : FaultMark) : Prop :=
  m.agent ≠ .xcvr ∧ (m.reason = .unwrittenLatch →
    t = .host k .readOutcome ∧ m.agent = .host ∧ d.role = .master ∧ d.stage = .idle ∧
      d.eng.outcome = none)

/-- What a turn does to the engine's part and to the marks of device `k`. -/
structure Device.EngineMoves (t : Turn) (k : Nat) (d d' : Device) : Prop where
  inv : d'.EngineInv
  marks : d.AddsMarks (NewMark t k d) d'

section
variable {t : Turn} {k : Nat} {d d' : Device}

theorem addsMarks_of_eq {ok : FaultMark → Prop} (h : d'.faults = d.faults) : d.AddsMarks ok d' :=
  ⟨fun hn => h ▸ hn, fun _ hm => .inl (h ▸ hm)⟩

theorem addsMarks_raise {ok : FaultMark → Prop} (hf : d'.faults = d.faults) (r : FaultReason) (a : Agent)
    (hok : ok { reason := r, agent := a, stage := d'.stage }) : d.AddsMarks ok (d'.raise r a) where
  nodup hn := d'.raise_nodup r a (hf ▸ hn)
  mem m hm := by
    rcases (d'.mem_raise r a m).mp hm with rfl | hm
    · exact .inr hok
    · exact .inl (hf ▸ hm)

/-- Every new mark is one that `MarksInv` admits. -/
theorem Device.AddsMarks.marksInv (h : d.AddsMarks (NewMark t k d) d') (hd : d.MarksInv) :
    d'.MarksInv := by
  obtain ⟨hnodup, hmarks⟩ := hd
  refine ⟨h.nodup hnodup, fun m hm => ?_⟩
  rcases h.mem m hm with hm | ⟨hagent, hlatch⟩
  · exact hmarks m hm
  · exact ⟨hagent, fun hr => (hlatch hr).2.1⟩

theorem Device.EngineInv.moves (h : d.EngineInv) (hs : d.SameEngine d') : d.EngineMoves t k d' :=
  ⟨h.of_same hs, addsMarks_of_eq hs.faults⟩

/-- The device after an effect of any agent but the transceiver. -/
theorem Eff.Leaves.engineMoves {e : Eff} {a : Agent} (he : e.Leaves d.KeepsEngine) (h : d.EngineInv)
    (ha : a ≠ .xcvr) : d.EngineMoves t k (e.settle a d) := by
  cases e with
  | done x => exact ⟨he.inv, addsMarks_of_eq he.faults⟩
  | fault r x =>
    obtain ⟨hr, hx⟩ := he
    exact ⟨hx.inv.raise r a, addsMarks_raise hx.faults r a ⟨ha, fun hl => absurd hl hr⟩⟩
  | refuse r => exact h.moves ⟨rfl, rfl, rfl, rfl⟩


/-! ### Every move -/

/-- A master's stage that reads no latch. -/
theorem engineInv_goto_of_master {st : Stage} (hr : d.role = .master) (hwc : st.isWc = false)
    (hrr : st.isRr = false) (hcs : st.isConfigureSlave = false) (hcs1 : ∀ a, st ≠ .configureSlave1 a) :
    (d.goto st).EngineInv := by
  constructor
  · refine ⟨by simp [hwc], by simp [hrr], ?_, ?_⟩
    · rintro (hst | hst) <;> rw [Device.goto_stage] at hst <;> subst hst
      · cases hwc
      · cases hrr
    · rintro hst
      rw [Device.goto_stage] at hst
      subst hst
      cases hrr
  · simp [Device.RoleInv, hr, hcs, hcs1]

/-- The host issues an operation other than a configure to a master only (R215). -/
theorem contextCheck_host_master {busRole : Option Role} {op : OpKind}
    (hc : contextCheck busRole .host op d = none) (hm : op ≠ .configureMaster) (hs : op ≠ .configureSlave) :
    d.role = .master := by
  unfold contextCheck at hc
  split at hc <;> simp_all

/-- Line 1 of an operation a host issues (R215, R216). -/
theorem issueLine1_engineMoves (cfg : Config) (h : d.EngineInv) {i : Instr} {op : OpKind} {st : Stage}
    {busRole : Option Role} (hst : IsLine1 i op st) (hc : contextCheck busRole .host op d = none) :
    d.EngineMoves t k (issueLine1 cfg st d) := by
  have hmaster := contextCheck_host_master hc
  have hprimitive : d.role = .master → st.isWc = false → st.isRr = false →
      st.isConfigureSlave = false → (∀ a, st ≠ .configureSlave1 a) →
      (runStage cfg (d.goto st)).Leaves (d.goto st).KeepsEngine := fun hr hwc hrr hcs hcs1 =>
    runStage_keepsEngine cfg (engineInv_goto_of_master hr hwc hrr hcs hcs1)
  have hrun : (runStage cfg (d.goto st)).Leaves (d.goto st).KeepsEngine := by
    cases hst with
    | configureMaster p n => exact configureMasterLine1_keepsEngine cfg p n (d.goto _)
    | configureSlave a => exact configureSlaveLine1_keepsEngine a (d.goto _)
    | start | stop | writeByte | readByte | armForReply | loadData | readData | setAck | clearEvent
    | recover | readStatus | writeCommand | readResponse =>
      exact hprimitive (hmaster nofun nofun) rfl rfl rfl nofun
  have hfrom : (runStage cfg (d.goto st)).Leaves d.KeepsEngine :=
    hrun.mono fun _ hk => ⟨hk.inv, hk.faults⟩
  exact hfrom.engineMoves h nofun

/-- An operation (R215). -/
theorem OpMove.engineMoves {cfg : Config} {who : Issuer} {i : Instr} {j : Nat} (h : d.EngineInv)
    (hop : OpMove cfg j who i d d') : d.EngineMoves t k d' := by
  cases hop with
  | refused r => exact h.moves ⟨rfl, rfl, rfl, rfl⟩
  | line1 op st hst hw hc => exact issueLine1_engineMoves cfg h hst hc
  | handlerLine op line hl =>
    exact ((line_sameEngine cfg d hl).mono fun _ hs => h.keeps hs).engineMoves h nofun

/-- The host's other actions (R370, R290): only the read of an outcome that is not there faults. -/
theorem hostAct_engineMoves (h : d.EngineInv) (a : HostAct) :
    d.EngineMoves (.host k a) k (hostAct a d) := by
  have same : ∀ {x : Device}, d.SameEngine x → d.EngineMoves (.host k a) k x := h.moves
  have hrefuse : ∀ r, d.SameEngine (d.refuse r) := fun r => ⟨rfl, rfl, rfl, rfl⟩
  unfold hostAct
  cases a with
  | readOutcome =>
    dsimp only
    split
    · exact same (hrefuse _)
    · rename_i hrole
      split
      · exact same (hrefuse _)
      · exact same ⟨rfl, rfl, rfl, rfl⟩
      · rename_i hidle hnone
        have hst : d.stage = .idle := by simpa [inFlightCheck] using hidle
        exact ⟨h.raise _ _, addsMarks_raise rfl _ _
          ⟨nofun, fun _ => ⟨rfl, rfl, not_not.mp hrole, hst, hnone⟩⟩⟩
  | cellRead | respWrite | setGie => exact same (.ite (hrefuse _) ⟨rfl, rfl, rfl, rfl⟩)
  | cellWrite => exact same (.ite (hrefuse _) (.ite ⟨rfl, rfl, rfl, rfl⟩ (hrefuse _)))
  | respWriteWide => exact same (hrefuse _)
  | poll | consume | refresh =>
    exact same (.ite (hrefuse _) (.ite (.refl d) ⟨rfl, rfl, rfl, rfl⟩))

theorem readRegister_sameEngine (C : Chip) (r : Option Reg) (d : Device) :
    d.SameEngine (readRegister C r d) := by
  unfold readRegister
  split
  case h_4 => exact (readData_sameEngine d).trans ⟨rfl, rfl, rfl, rfl⟩
  all_goals exact ⟨rfl, rfl, rfl, rfl⟩

theorem writeRegister_sameEngine (L : StatLayout) (r : Option Reg) (v : Byte) (d : Device) :
    d.SameEngine (writeRegister L r v d) := by
  unfold writeRegister
  split
  case h_4 => exact writeData_sameEngine d v
  all_goals exact ⟨rfl, rfl, rfl, rfl⟩

theorem drawn_sameEngine {cs : List Status} {go : Device} (code : Status) (h : d.SameEngine go) :
    d.SameEngine (drawn (some cs) code d go) :=
  .ite h (.refl d)

/-- A transceiver whose latches were written reads none that holds no value (R145). -/
theorem xcvrStep_sameEngine (O : OadrLayout) (code : Status) (b : Byte) (h : d.XcvrInv) :
    d.SameEngine (xcvrStep O code b d) := by
  obtain ⟨⟨cs, hcs⟩, es, hes⟩ := codes_some O h
  have hself := Device.SameEngine.refl d
  have hbyte : d.SameEngine { d with data := b } := ⟨rfl, rfl, rfl, rfl⟩
  have hevent : ∀ {x : Device}, d.SameEngine x → d.SameEngine (x.event code) :=
    fun hx => hx.trans ⟨rfl, rfl, rfl, rfl⟩
  unfold xcvrStep
  rw [hcs, hes]
  exact .ite hself (.ite (drawn_sameEngine code (hevent (.ite hbyte hself))) (.ite ⟨rfl, rfl, rfl, rfl⟩
    (.ite (drawn_sameEngine code (hevent (.ite hbyte hself))) hself)))

theorem JointMaster.sameEngine (h : JointMaster d d') : d.SameEngine d' := by
  cases h <;> exact ⟨rfl, rfl, rfl, rfl⟩

theorem JointSlave.sameEngine {O : OadrLayout} (h : JointSlave O d d') : d.SameEngine d' := by
  cases h <;> exact ⟨rfl, rfl, rfl, rfl⟩

theorem afterReset_engineMoves (C : Chip) (par : DevParams) (n : Nat) :
    d.EngineMoves t k (.afterReset C par n) :=
  ⟨engineInv_of_idle rfl, fun _ => .nil, nofun⟩

/-- The devices of a system that meets the invariant. -/
theorem State.Inv.device {s : State} (hs : s.Inv) (hd : s.devs[k]? = some d) : d.Inv := by
  obtain ⟨hdevs, -, -⟩ := hs
  exact hdevs d (List.mem_of_getElem? hd)

/-- In a system that meets the invariant no joint step reads an unwritten latch (R145). -/
theorem State.Inv.jointMove_ne_none {s : State} (hs : s.Inv) {m : Device} {ds : List Device}
    (hdevs : s.devs = m :: ds) :
    jointMove s.cfg.chip.oadr { master := m, slaves := ds, target := s.target } ≠ none := by
  obtain ⟨hinv, -, -⟩ := hs
  rw [hdevs] at hinv
  have hxcvr : ∀ d ∈ m :: ds, d.XcvrInv := fun d hd => (hinv d hd).1
  exact Machine.jointMove_ne_none _ (hxcvr m (List.mem_cons_self ..)) fun d hd =>
    hxcvr d (List.mem_cons_of_mem m hd)

/-- Every move keeps the engine's part of the invariant and adds only marks that `NewMark` names. -/
theorem Move.engineMoves {s : State} (hs : s.Inv) (hd : s.devs[k]? = some d) (hm : Move s k d t d') :
    d.EngineMoves t k d' := by
  obtain ⟨hx, hlatch, hrole, -⟩ := hs.device hd
  have h : d.EngineInv := ⟨hlatch, hrole⟩
  cases hm with
  | stay => exact h.moves (.refl d)
  | illegal | directRefused => exact h.moves ⟨rfl, rfl, rfl, rfl⟩
  | issue who w i _ _ _ hop => exact hop.engineMoves h
  | engine => exact (runStage_keepsEngine s.cfg h).engineMoves h nofun
  | handler action ha =>
    exact ((handlerInvocation_sameEngine s.cfg d ha).mono fun _ he => h.keeps he).engineMoves h nofun
  | hostAct a => exact hostAct_engineMoves h a
  | directRead => exact h.moves (readRegister_sameEngine _ _ d)
  | directWrite => exact h.moves (writeRegister_sameEngine _ _ _ d)
  | directCtrl off v v' =>
    exact ((ctrlWrite_sameEngine s.cfg d v').mono fun _ he => h.keeps he).engineMoves h nofun
  | xcvr code b => exact h.moves (xcvrStep_sameEngine _ code b hx)
  | jointMaster _ _ _ _ _ hj => exact h.moves hj.sameEngine
  | jointSlave _ _ _ _ hj => exact h.moves hj.sameEngine
  | jointFault ds _ _ hdevs hnone => exact absurd hnone (hs.jointMove_ne_none hdevs)
  | reset | resetAll => exact afterReset_engineMoves _ _ _

theorem xcvrInv_readRegister {C : Chip} {r : Option Reg} (h : d.XcvrInv) : (readRegister C r d).XcvrInv := by
  unfold readRegister
  split
  case h_4 => exact xcvrInv_readData h
  all_goals exact h

theorem xcvrInv_writeRegister {L : StatLayout} {r : Option Reg} {v : Byte} (h : d.XcvrInv) :
    (writeRegister L r v d).XcvrInv := by
  unfold writeRegister
  split
  case h_4 => exact xcvrInv_writeData v h
  all_goals exact h

/-- Every move keeps the transceiver's part of the invariant. -/
theorem Move.xcvrInv {s : State} (hq : QuietReset s.cfg.chip) (h : d.XcvrInv) (hm : Move s k d t d') :
    d'.XcvrInv := by
  cases hm with
  | stay | illegal | directRefused | jointFault => exact h
  | issue who w i _ _ _ hop =>
    cases hop with
    | refused r => exact h
    | line1 op st => exact (keepsXcvrInv_runStage s.cfg (xcvrInv_goto h st)).settle h
    | handlerLine op line hl => exact (keepsXcvrInv_line hl h).settle h
  | engine => exact (keepsXcvrInv_runStage s.cfg h).settle h
  | handler action ha => exact (keepsXcvrInv_handler ha h).settle h
  | hostAct a => exact xcvrInv_hostAct a h
  | directRead => exact xcvrInv_readRegister h
  | directWrite => exact xcvrInv_writeRegister h
  | directCtrl off v v' => exact (keepsXcvrInv_ctrlWrite s.cfg v' h).settle h
  | xcvr code b => exact xcvrInv_xcvrStep _ code b h
  | jointMaster _ _ _ he _ hj => exact xcvrInv_jointMaster h he hj
  | jointSlave _ _ _ _ hj => exact xcvrInv_jointSlave h hj
  | reset | resetAll => exact xcvrInv_afterReset hq _ _

end

end Sys2Proof.Machine

namespace Sys2Proof.Machine

/-! ### The invariant of the system -/

/-- Every move keeps the invariant of its device. -/
theorem Move.inv {s : State} {t : Turn} {k : Nat} {d d' : Device} (hs : s.Inv)
    (hd : s.devs[k]? = some d) (hm : Move s k d t d') : d'.Inv := by
  have ⟨_, _, hquiet⟩ := hs
  obtain ⟨hx, -, -, hmarks⟩ := hs.device hd
  obtain ⟨⟨hlatch, hrole⟩, hadds⟩ := hm.engineMoves hs hd
  exact ⟨hm.xcvrInv hquiet hx, hlatch, hrole, hadds.marksInv hmarks⟩

/-- Every turn keeps the invariant of the system. -/
theorem State.Inv.after_stepTurn {s s' : State} {t : Turn} (hs : s.Inv) (h : stepTurn t s = .next s') :
    s'.Inv := by
  have ⟨_, hnames, hquiet⟩ := hs
  obtain ⟨hcfg, hlen, htarget, hmoves⟩ := turn_moves h
  refine ⟨fun d' hd' => ?_, fun k hk => ?_, hcfg ▸ hquiet⟩
  · obtain ⟨j, hj, rfl⟩ := List.mem_iff_getElem.mp hd'
    obtain ⟨e', he', hm⟩ := hmoves j s.devs[j] (List.getElem?_eq_getElem (hlen ▸ hj))
    obtain rfl : s'.devs[j] = e' := by simpa [hj] using he'
    exact hm.inv hs (List.getElem?_eq_getElem (hlen ▸ hj))
  · rw [hlen]
    rcases htarget with ht | ht | ⟨j, ht, h1, h2⟩
    · exact hnames k (ht ▸ hk)
    · cases ht ▸ hk
    · obtain rfl : j = k := by simpa [ht] using hk
      exact ⟨h1, h2⟩

/-- Settles O52: a step runs the oldest turn, whose moves keep the invariant. -/
theorem everyStepKeepsTheInvariant : Obligations.EveryStepKeepsTheInvariant := by
  intro s s' hs hstep
  cases hin : s.inputs with
  | nil =>
    obtain rfl : s = s' := by simpa [step, runInputs, hin] using hstep
    exact hs
  | cons t rest =>
    have hturn : stepTurn t { s with inputs := rest } = .next s' := by
      rw [stepTurn_eq, ← hstep, step, runInputs, hin]
    have hrest : ({ s with inputs := rest } : State).Inv := hs
    exact hrest.after_stepTurn hturn

/-- Settles O53: a device after reset is off the bus and at rest. -/
theorem resetMeetsTheInvariant : Obligations.ResetMeetsTheInvariant := by
  refine ⟨fun cfg pars hq => ⟨fun d hd => ?_, nofun, hq⟩, quietReset_standard⟩
  obtain ⟨p, -, rfl⟩ := List.mem_map.mp hd
  have hengine : (Device.afterReset cfg.chip p 0).EngineInv := engineInv_of_idle rfl
  exact ⟨xcvrInv_afterReset hq p 0, hengine.latch, hengine.role, .nil, nofun⟩

/-! ### Reads of a latch that holds no value (R41, R145) -/

/-- An engine stage whose latch holds no value (R246, R247). -/
theorem runStage_of_unwritten (cfg : Config) {d : Device}
    (h : d.eng.addr = none ∧ (d.stage = .wcAddrLoad ∨ d.stage = .rrAddrLoad) ∨
      d.eng.cmd = none ∧ d.stage = .wcDataLoad ∨ d.eng.byte = none ∧ d.stage = .rrFinish ∨
      d.eng.code = none ∧ (d.stage = .wcAbort ∨ d.stage = .rrAbort)) :
    runStage cfg d = .fault .unwrittenLatch d := by
  rcases h with ⟨hl, hst | hst⟩ | ⟨hl, hst⟩ | ⟨hl, hst⟩ | ⟨hl, hst | hst⟩ <;>
    simp [runStage, hst, hl, withLatch]

/-- A phase whose byte step completes reads `txbyte` or `ack` (R160); an addressed slave's is no such
phase. -/
theorem completionCodes_of_unwritten (O : OadrLayout) {d : Device} (hp : d.pend = .byte)
    (h : d.txbyte = none ∧ d.phase.isAddr = true ∨ d.ack = none ∧ d.phase.isMr = true) :
    completionCodes O d = none := by
  have hmr : d.phase.isMr = true → d.phase.isAddr = false ∧ d.phase.isMt = false := by
    cases d.phase <;> decide
  rcases h with ⟨hl, ha⟩ | ⟨hl, hm⟩
  · simp [completionCodes, hp, ha, hl]
  · simp [completionCodes, hp, hmr hm, hm, hl]

/-- A slave event of an addressed slave reads `ack` (R165). -/
theorem eventCodes_of_unwritten (O : OadrLayout) {d : Device} (hp : d.pend = .byte) (hl : d.ack = none)
    (h : d.phase.isAddressed = true) : eventCodes O d = none := by
  simp only [Status.isAddressed, Bool.or_eq_true] at h
  simp only [eventCodes, hp, hl, Option.map_none]
  split_ifs <;> simp_all

/-- A transceiver step that reads a latch that holds no value faults (R41, U27). -/
theorem xcvrStep_of_unwritten (O : OadrLayout) (code : Status) (b : Byte) {d : Device}
    (hh : d.halted .xcvr = false) (hen : d.ctrl.en = true) (hint : d.ctrl.int = false)
    (hsto : d.ctrl.sto = false) (hp : d.pend = .byte)
    (h : d.txbyte = none ∧ d.phase.isAddr = true ∨
      d.ack = none ∧ (d.phase.isMr = true ∨ d.phase.isAddressed = true)) :
    xcvrStep O code b d = d.raise .unwrittenLatch .xcvr := by
  have hmaster : d.phase.isAddr = true ∨ d.phase.isMr = true → completionEnabled d = true := by
    rintro (hx | hx) <;> simp [completionEnabled, hen, hint, hp, hx]
  have hslave : d.phase.isAddressed = true →
      completionEnabled d = false ∧ stopEnabled d = false ∧ slaveEventEnabled d = true := by
    intro hx
    have hno : d.phase.isAddr = false ∧ d.phase.isMt = false ∧ d.phase.isMr = false ∧
        d.phase ≠ .busError := by
      revert hx; cases d.phase <;> decide
    simp [completionEnabled, stopEnabled, slaveEventEnabled, hen, hint, hsto, hp, hx, hno, Pend.isStop]
  have hcompletion : d.txbyte = none ∧ d.phase.isAddr = true ∨ d.ack = none ∧ d.phase.isMr = true →
      xcvrStep O code b d = d.raise .unwrittenLatch .xcvr := by
    intro hx
    simp [xcvrStep, hh, hmaster (hx.imp And.right And.right), completionCodes_of_unwritten O hp hx, drawn]
  rcases h with h | ⟨hl, hm | ha⟩
  · exact hcompletion (.inl h)
  · exact hcompletion (.inr ⟨hl, hm⟩)
  · simp [xcvrStep, hh, hslave ha, eventCodes_of_unwritten O hp hl ha, drawn]

/-- Settles O54: a turn adds only marks that `NewMark` names, and a read of an unwritten latch faults. -/
theorem noUnwrittenLatchIsRead : Obligations.NoUnwrittenLatchIsRead := by
  refine ⟨fun s s' t k d d' m hs hstep hd hd' hm hr => ?_, fun s k d hd hh hl => ?_,
    fun s k d code b hd hb hh hen hint hsto hp hl => ?_⟩
  · obtain ⟨-, -, -, hmoves⟩ := turn_moves hstep
    obtain ⟨e, he, hmove⟩ := hmoves k d hd
    obtain rfl : d' = e := Option.some.inj (hd'.symm.trans he)
    exact ((hmove.engineMoves hs hd).marks.mem m hm).imp_right fun hnew => hnew.2 hr
  · rw [stepTurn_engine hd, engineTurn, hh, runStage_of_unwritten s.cfg hl]
    rfl
  · rw [stepTurn_xcvr hb hd, xcvrStep_of_unwritten _ code b hh hen hint hsto hp hl]

end Sys2Proof.Machine

namespace Sys2Proof.Machine

/-! ### The registers after reset (R46, R380) -/

/-- `CTRL` and `STAT` as read after reset: no field of `CTRL` is set, so no event is pending, and `PS`
is 0. -/
theorem controlAndStatus_afterReset (p : DevParams) (n : Nat) :
    (Device.afterReset standardChip p n).ctrl.toByte standardCtrl = 0x00 ∧
    (Device.afterReset standardChip p n).stat standardChip = 0xF8 := by
  show (Ctrl.ofByte standardCtrl 0x00).toByte standardCtrl = 0x00 ∧
    Status.noInfo.code ||| standardStat.placePs 0 = 0xF8
  decide

/-- Settles O1: the values stand in `Device.afterReset`, and with no event and no command pending every
agent of the device is at rest. -/
theorem resetLeavesTheSpecifiedValues : Obligations.ResetLeavesTheSpecifiedValues := by
  refine ⟨⟨⟨defaultConfig, [defaultParams 0, defaultParams 1], rfl, rfl⟩, fun cfg pars k p hC hp => ?_⟩,
    fun s k d hC hd => ?_⟩
  · obtain ⟨hctrl, hstat⟩ := controlAndStatus_afterReset p 0
    refine ⟨.afterReset standardChip p 0, by simp [State.resetWith, hp, hC], ?_⟩
    exact ⟨hctrl, hstat, rfl, rfl, rfl, rfl, rfl, rfl, rfl, rfl, rfl, rfl, rfl, rfl, rfl⟩
  · obtain ⟨hctrl, hstat⟩ := controlAndStatus_afterReset d.par d.draws
    have hchip : s.cfg.chip = standardChip := hC
    refine ⟨.afterReset standardChip d.par d.draws, ?_, ?_, rfl, ?_, rfl, rfl, rfl, rfl, rfl⟩
    · rw [stepTurn_reset hd, hchip]
    · rw [← hchip]; rfl
    · exact ⟨hctrl, hstat, rfl, rfl, rfl, rfl, rfl, rfl, rfl, rfl, rfl, rfl, rfl, rfl, rfl, rfl, rfl⟩

/-! ### Direct accesses (R29, R32, R61, R95, R175) -/

/-- A direct read of a device that is no slave. -/
theorem stepTurn_read_of_role {s : State} {k : Nat} {d : Device} (hC : s.standard)
    (hd : s.devs[k]? = some d) (hh : d.halted .host = false) (hr : d.role ≠ .slave) {off : BitVec 3}
    {r : Reg} (ho : standardOffsets.regAt off = some r) :
    stepTurn (.direct k (.read off)) s = .next (s.after k .host (readRegister standardChip (some r) d)) := by
  rw [stepTurn_read hd hh, hC, standardChip_offsets, ho, accessRegister_of_role hr]

/-- A direct write of a register other than `CTRL` of a device that is no slave. -/
theorem stepTurn_write_of_role {s : State} {k : Nat} {d : Device} (hC : s.standard)
    (hd : s.devs[k]? = some d) (hh : d.halted .host = false) (hr : d.role ≠ .slave) {off : BitVec 3}
    {r : Reg} (ho : standardOffsets.regAt off = some r) (hctrl : r ≠ .ctrl) (v : Byte) :
    stepTurn (.direct k (.write off v)) s =
      .next (s.after k .host (writeRegister standardStat (some r) v d)) := by
  have ho' : s.cfg.chip.offsets.regAt off = some r := by rw [hC]; exact ho
  rw [stepTurn_write hd hh (by simpa [ho'] using hctrl), ho', accessRegister_of_role hr, hC]
  rfl

/-- The fields of `STAT` (R29, R32): the status field holds the phase's code or 0xF8, bit 2 is 0, `PS`
stands in the two lowest bits. -/
theorem stat_fields (d : Device) :
    (d.stat standardChip).extractLsb' 3 5 =
      (if d.ctrl.int then d.phase.code.extractLsb' 3 5 else 0b11111) ∧
    (d.stat standardChip).getLsbD 2 = false ∧ (d.stat standardChip).extractLsb' 0 2 = d.ps := by
  have hfield : ∀ (p : Status) (ps : BitVec 2),
      (p.code ||| standardStat.placePs ps).extractLsb' 3 5 = p.code.extractLsb' 3 5 ∧
      (p.code ||| standardStat.placePs ps).getLsbD 2 = false ∧
      (p.code ||| standardStat.placePs ps).extractLsb' 0 2 = ps := by
    intro p; cases p <;> decide
  obtain ⟨h1, h2, h3⟩ := hfield (if d.ctrl.int then d.phase else .noInfo) d.ps
  refine ⟨h1.trans ?_, h2, h3⟩
  split <;> rfl

/-- Settles O8. -/
theorem statusReadsThePhaseWhileAnEventIsPending :
    Obligations.StatusReadsThePhaseWhileAnEventIsPending := by
  intro s k d hC hd hh C
  obtain ⟨hfield, hbit, hps⟩ := stat_fields d
  have hcode : d.statusCode C = (if d.ctrl.int then d.phase else .noInfo).code :=
    d.statusCode_eq standardChip_wellFormed
  have hmultiple : ∀ p : Status, p.code &&& 0x07 = 0 := by intro p; cases p <;> decide
  refine ⟨hfield, hbit, hps, ?_, ?_, fun hr => stepTurn_read_of_role hC hd hh hr (r := .stat) rfl⟩
  · rw [hcode]; cases d.ctrl.int <;> rfl
  · rw [hcode]; exact hmultiple _

/-- The five offsets of R61 hold a register, and 5 to 7 hold none. -/
theorem regAt_standard (off : BitVec 3) :
    (standardOffsets.regAt off = none ↔ 5 ≤ off.toNat) ∧
    (standardOffsets.regAt off = some .ctrl ↔ off = 4) := by
  revert off; decide

/-- A direct access at an offset that holds no register, whoever owns the transceiver (R61). -/
theorem stepTurn_direct_badOffset {s : State} {k : Nat} {d : Device} (hC : s.standard)
    (hd : s.devs[k]? = some d) (hh : d.halted .host = false) {off : BitVec 3} (ho : 5 ≤ off.toNat)
    (v : Byte) :
    stepTurn (.direct k (.read off)) s = .next (s.after k .host (d.refuse .badRegisterOffset)) ∧
    stepTurn (.direct k (.write off v)) s = .next (s.after k .host (d.refuse .badRegisterOffset)) := by
  have hr : s.cfg.chip.offsets.regAt off = none := by rw [hC]; exact (regAt_standard off).1.mpr ho
  constructor
  · rw [stepTurn_read hd hh, hr, accessRegister_of_badOffset]; rfl
  · rw [stepTurn_write hd hh (by simp [hr]), hr, accessRegister_of_badOffset]; rfl

/-- A direct write of `CTRL` by a slave's host is refused before the word is looked at (R347). -/
theorem writeCtrl_of_slave {s : State} {d : Device} (hd : s.devs[s.cur]? = some d)
    (hi : s.issuer = .host) (hr : d.role = .slave) (v : Byte) :
    writeCtrl v s = .next (s.setCur (d.refuse .hostTouchesSlaveTransceiver)) := by
  unfold writeCtrl
  cases hv : decodeCtrl s.cfg.chip.ctrl v with
  | ok i =>
    obtain ⟨v', -, hexec⟩ := exec_directWrite v hv
    show exec i s = _
    rw [hexec, directWrite, onCur_some _ hd]
    simp [touchesSlave, hi, hr]
  | error r =>
    show onCur s _ = _
    rw [onCur_some _ hd, accessRegister_of_slave hr]

/-- A slave's host may access no register (R71, R215.3). -/
theorem stepTurn_direct_of_slave {s : State} {k : Nat} {d : Device} (hC : s.standard)
    (hd : s.devs[k]? = some d) (hh : d.halted .host = false) (hr : d.role = .slave) {off : BitVec 3}
    (ho : off.toNat < 5) (v : Byte) :
    stepTurn (.direct k (.read off)) s =
      .next (s.after k .host (d.refuse .hostTouchesSlaveTransceiver)) ∧
    stepTurn (.direct k (.write off v)) s =
      .next (s.after k .host (d.refuse .hostTouchesSlaveTransceiver)) := by
  have hsome : s.cfg.chip.offsets.regAt off ≠ none := fun hn => by
    rw [hC] at hn
    exact absurd ((regAt_standard off).1.mp hn) (by omega)
  obtain ⟨r, hreg⟩ := Option.ne_none_iff_exists'.mp hsome
  constructor
  · rw [stepTurn_read hd hh, hreg, accessRegister_of_slave hr]
  · by_cases hctrl : r = .ctrl
    · subst hctrl
      rw [stepTurn_writeCtrl hd hh hreg]
      exact writeCtrl_of_slave (s := s.focus k .host) hd rfl hr v
    · rw [stepTurn_write hd hh (by simpa [hreg] using hctrl), hreg, accessRegister_of_slave hr]

/-- The bits of a read of `CTRL` (R91, R175). -/
theorem ctrl_bits (c : Ctrl) :
    (c.toByte standardCtrl).getLsbD 7 = c.int ∧ (c.toByte standardCtrl).getLsbD 6 = c.ea ∧
    (c.toByte standardCtrl).getLsbD 5 = c.sta ∧ (c.toByte standardCtrl).getLsbD 4 = c.sto ∧
    (c.toByte standardCtrl).getLsbD 3 = c.wc ∧ (c.toByte standardCtrl).getLsbD 2 = c.en ∧
    (c.toByte standardCtrl).getLsbD 1 = false ∧ (c.toByte standardCtrl).getLsbD 0 = c.ie := by
  have h := ctrlWord_readsBack standardCtrl_wellFormed c.int c.ea c.sta c.sto c.wc c.en c.ie
  exact ⟨h.int, h.ea, h.sta, h.sto, h.wc, h.en, h.rsv, h.ie⟩

/-- Settles O9, access by access. -/
theorem controlReadsAndTheRegisterSpace : Obligations.ControlReadsAndTheRegisterSpace := by
  intro s k d hC hd hh answers refusedWith c
  refine ⟨ctrl_bits d.ctrl, fun hr => ?_, fun off v ho => stepTurn_direct_badOffset hC hd hh ho v,
    fun hr off v ho => stepTurn_direct_of_slave hC hd hh hr ho v⟩
  have hread := fun off r ho => stepTurn_read_of_role hC hd hh hr (off := off) (r := r) ho
  have hwrite := fun off r ho hctrl v =>
    stepTurn_write_of_role hC hd hh hr (off := off) (r := r) ho hctrl v
  refine ⟨hread 4 .ctrl rfl, hread 0 .br rfl, hread 2 .oadr rfl, fun hi => ?_, fun hi => ?_, fun v =>
    ⟨hwrite 0 .br rfl nofun v, hwrite 1 .stat rfl nofun v, hwrite 2 .oadr rfl nofun v, fun hi => ?_,
      fun hi => ?_⟩⟩
  · exact (hread 3 .data rfl).trans (by rw [readRegister, readData_of_int d hi]; rfl)
  · exact (hread 3 .data rfl).trans (by rw [readRegister, readData_of_busy d hi]; rfl)
  · exact (hwrite 3 .data rfl nofun v).trans (by rw [writeRegister, writeData_of_int v d hi])
  · exact (hwrite 3 .data rfl nofun v).trans (by rw [writeRegister, writeData_of_busy v d hi])

end Sys2Proof.Machine

namespace Sys2Proof

/-! ### The table of operation words (R105, R106) -/

/-- A row of the decoder's table: the opcode, the mask of its format, and the operation read from a word.
`decodeOp_of_format` ties it to `decodeOp`. -/
inductive OpFormat : BitVec 4 → OpWord → (OpWord → Instr) → Prop
  | configureMaster : OpFormat 0x1 maskOPC fun w => .configureMaster (fieldPresc w) (fieldScl w)
  | configureSlave : OpFormat 0x2 maskOPR fun w => .configureSlave (fieldAddr w)
  | start : OpFormat 0x3 maskOPN fun _ => .start
  | stop : OpFormat 0x4 maskOPN fun _ => .stop
  | writeByte : OpFormat 0x5 maskOPB fun w => .writeByte (fieldByte w)
  | readByte : OpFormat 0x6 maskOPA fun w => .readByte (fieldA w)
  | armForReply : OpFormat 0x7 maskOPN fun _ => .armForReply
  | loadData : OpFormat 0x8 maskOPB fun w => .loadData (fieldByte w)
  | readData : OpFormat 0x9 maskOPN fun _ => .readData
  | setAck : OpFormat 0xA maskOPA fun w => .setAck (fieldA w)
  | clearEvent : OpFormat 0xB maskOPN fun _ => .clearEvent
  | recover : OpFormat 0xC maskOPN fun _ => .recover
  | writeCommand : OpFormat 0xD maskOPRB fun w => .writeCommand (fieldAddr w) (fieldByte w)
  | readResponse : OpFormat 0xE maskOPR fun w => .readResponse (fieldAddr w)
  | readStatus : OpFormat 0xF maskOPN fun _ => .readStatus

/-- Every opcode but 0 has a row (R106). -/
theorem exists_opFormat {op : BitVec 4} (h : op ≠ 0) : ∃ m read, OpFormat op m read := by
  obtain ⟨n, hn⟩ := op
  interval_cases n
  · exact absurd rfl h
  exacts [⟨_, _, .configureMaster⟩, ⟨_, _, .configureSlave⟩, ⟨_, _, .start⟩, ⟨_, _, .stop⟩,
    ⟨_, _, .writeByte⟩, ⟨_, _, .readByte⟩, ⟨_, _, .armForReply⟩, ⟨_, _, .loadData⟩, ⟨_, _, .readData⟩,
    ⟨_, _, .setAck⟩, ⟨_, _, .clearEvent⟩, ⟨_, _, .recover⟩, ⟨_, _, .writeCommand⟩,
    ⟨_, _, .readResponse⟩, ⟨_, _, .readStatus⟩]

theorem decodeOp_of_opcode_zero {w : OpWord} (hop : w.extractLsb' 28 4 = 0) :
    decodeOp w = .error .illegalOperationWord := by
  simp [decodeOp, hop]

section
variable {op : BitVec 4} {m w : OpWord} {read : OpWord → Instr}

/-- A word is decoded by the row of its opcode (R108). -/
theorem decodeOp_of_format (hf : OpFormat op m read) (hop : w.extractLsb' 28 4 = op) :
    decodeOp w = ifFormat m w (read w) := by
  cases hf <;> simp [decodeOp, hop]

theorem ifFormat_of_inMask {i : Instr} (h : w &&& ~~~m = 0) : ifFormat m w i = .ok i := if_pos h

theorem ifFormat_of_outside {i : Instr} (h : w &&& ~~~m ≠ 0) :
    ifFormat m w i = .error .illegalOperationWord := if_neg h

theorem ifFormat_eq_ok {i j : Instr} (h : ifFormat m w i = .ok j) : w &&& ~~~m = 0 ∧ i = j := by
  unfold ifFormat at h
  split at h
  · exact ⟨‹_›, Except.ok.inj h⟩
  · cases h

/-- A word that decodes has a row and lies inside the row's mask. -/
theorem decodeOp_eq_ok {i : Instr} (h : decodeOp w = .ok i) :
    ∃ m read, OpFormat (w.extractLsb' 28 4) m read ∧ w &&& ~~~m = 0 ∧ read w = i := by
  by_cases hz : w.extractLsb' 28 4 = 0
  · rw [decodeOp_of_opcode_zero hz] at h; cases h
  · obtain ⟨m, read, hf⟩ := exists_opFormat hz
    rw [decodeOp_of_format hf rfl] at h
    exact ⟨m, read, hf, ifFormat_eq_ok h⟩

/-- A set bit outside the mask makes the word illegal (R107). -/
theorem decodeOp_of_bit_outside (hf : OpFormat op m read) (hop : w.extractLsb' 28 4 = op) {i : Nat}
    (hi : i < 32) (hm : m.getLsbD i = false) (hw : w.getLsbD i = true) :
    decodeOp w = .error .illegalOperationWord := by
  rw [decodeOp_of_format hf hop]
  refine ifFormat_of_outside fun h => ?_
  rw [getLsbD_of_mask m w h i hi hm] at hw
  cases hw

theorem wellFormed_of_format (hf : OpFormat op m read) (T : StatusTable) :
    (read w).wellFormed T = true := by cases hf <;> rfl

/-- The encoding of what a row reads from a word inside its mask is the word. -/
theorem encode_of_format (hf : OpFormat op m read) (hop : w.extractLsb' 28 4 = op)
    (hm : w &&& ~~~m = 0) (C : Chip) : encode C (read w) = .op w := by
  cases hf with
  | configureMaster => exact congrArg _ (rebuild_OPC w _ hop hm)
  | configureSlave | readResponse => exact congrArg _ (rebuild_OPR w _ hop hm)
  | writeCommand => exact congrArg _ (rebuild_OPRB w _ hop hm)
  | writeByte | loadData => exact congrArg _ (rebuild_OPB w _ hop hm)
  | readByte | setAck => exact congrArg _ (rebuild_OPA w _ hop hm)
  | start | stop | armForReply | readData | clearEvent | recover | readStatus =>
    exact congrArg _ (rebuild_OPN w _ hop hm)

end

/-! ### Words built from an opcode and operands (R105) -/

/-- A word of an opcode that lies inside a format's mask. -/
structure InFormat (op : BitVec 4) (m w : OpWord) : Prop where
  opcode : w.extractLsb' 28 4 = op
  inMask : w &&& ~~~m = 0

/-- A word inside the format of its opcode decodes to what the opcode's row reads from it. -/
theorem InFormat.decodeOp_eq {op : BitVec 4} {m w : OpWord} {read : OpWord → Instr} {i : Instr}
    (h : InFormat op m w) (hf : OpFormat op m read) (hi : read w = i) : decodeOp w = .ok i := by
  rw [decodeOp_of_format hf h.opcode, ifFormat_of_inMask h.inMask, hi]

/-- Inside a mask is every bit of a word that the mask does not have at 0; the converse of
`getLsbD_of_mask`. -/
theorem inMask_of_getLsbD {m w : OpWord}
    (h : ∀ i, i < 32 → m.getLsbD i = false → w.getLsbD i = false) : w &&& ~~~m = 0 := by
  refine BitVec.eq_of_getLsbD_eq fun i hi => ?_
  cases hm : m.getLsbD i
  · simp [h i hi hm]
  · simp [hm]

/-- Operands at their places under an opcode, in a format whose mask has the opcode's bits. -/
theorem inFormat_of_operands {m x : OpWord} (op : BitVec 4) (hm : 0xF0000000#32 &&& ~~~m = 0)
    (hx : x &&& ~~~(m &&& 0x0FFFFFFF#32) = 0) : InFormat op m (opcodeBits op ||| x) := by
  have hbits := getLsbD_of_mask _ x hx
  have hop : opcodeBits op &&& ~~~0xF0000000#32 = 0 := by revert op; decide
  constructor
  · refine opcode_of_placed op x (inMask_of_getLsbD (m := 0x0FFFFFFF#32) fun i hi h => hbits i hi ?_)
    simp [h]
  · refine inMask_of_getLsbD fun i hi h => ?_
    have hopcode := getLsbD_of_mask _ _ hop i hi (getLsbD_of_mask m _ hm i hi h)
    have hoperand := hbits i hi (by simp [h])
    simp [hopcode, hoperand]

section
variable (op : BitVec 4) (a : Addr) (b : Byte) (k : BitVec 16) (x : Bool)

theorem inFormat_OPN : InFormat op maskOPN (opcodeBits op) := by
  simpa using inFormat_of_operands (m := maskOPN) (x := 0) op rfl rfl

theorem inFormat_OPB : InFormat op maskOPB (opcodeBits op ||| placeByte b) :=
  inFormat_of_operands op rfl <| BitVec.eq_of_getLsbD_eq fun i hi => by
    interval_cases i <;> simp [maskOPB, placeByte]

theorem inFormat_OPA : InFormat op maskOPA (opcodeBits op ||| placeA x) :=
  inFormat_of_operands op rfl (by cases x <;> rfl)

theorem inFormat_OPR : InFormat op maskOPR (opcodeBits op ||| placeAddr a) :=
  inFormat_of_operands op rfl <| BitVec.eq_of_getLsbD_eq fun i hi => by
    interval_cases i <;> simp [maskOPR, placeAddr]

theorem inFormat_OPRB : InFormat op maskOPRB (opcodeBits op ||| placeAddr a ||| placeByte b) := by
  rw [BitVec.or_assoc]
  exact inFormat_of_operands op rfl <| BitVec.eq_of_getLsbD_eq fun i hi => by
    interval_cases i <;> simp [maskOPRB, placeAddr, placeByte]

theorem inFormat_OPC : InFormat op maskOPC (opcodeBits op ||| placePresc b ||| placeScl k) := by
  rw [BitVec.or_assoc]
  exact inFormat_of_operands op rfl <| BitVec.eq_of_getLsbD_eq fun i hi => by
    interval_cases i <;> simp [maskOPC, placePresc, placeScl]

/-! ### Reading an operand back from its place -/

@[simp] theorem fieldByte_OPB : fieldByte (opcodeBits op ||| placeByte b) = b :=
  BitVec.eq_of_getLsbD_eq fun i hi => by
    interval_cases i <;> simp [fieldByte, opcodeBits, placeByte]

@[simp] theorem fieldA_OPA : fieldA (opcodeBits op ||| placeA x) = x := by
  simp [fieldA, opcodeBits, placeA]

@[simp] theorem fieldAddr_OPR : fieldAddr (opcodeBits op ||| placeAddr a) = a :=
  BitVec.eq_of_getLsbD_eq fun i hi => by
    interval_cases i <;> simp [fieldAddr, opcodeBits, placeAddr]

@[simp] theorem fieldAddr_OPRB : fieldAddr (opcodeBits op ||| placeAddr a ||| placeByte b) = a :=
  BitVec.eq_of_getLsbD_eq fun i hi => by
    interval_cases i <;> simp [fieldAddr, opcodeBits, placeAddr, placeByte]

@[simp] theorem fieldByte_OPRB : fieldByte (opcodeBits op ||| placeAddr a ||| placeByte b) = b :=
  BitVec.eq_of_getLsbD_eq fun i hi => by
    interval_cases i <;> simp [fieldByte, opcodeBits, placeAddr, placeByte]

@[simp] theorem fieldPresc_OPC : fieldPresc (opcodeBits op ||| placePresc b ||| placeScl k) = b :=
  BitVec.eq_of_getLsbD_eq fun i hi => by
    interval_cases i <;> simp [fieldPresc, opcodeBits, placePresc, placeScl]

@[simp] theorem fieldScl_OPC : fieldScl (opcodeBits op ||| placePresc b ||| placeScl k) = k :=
  BitVec.eq_of_getLsbD_eq fun i hi => by
    interval_cases i <;> simp [fieldScl, opcodeBits, placePresc, placeScl]

end

/-! ### Handler keys (R114) -/

/-- With no two names sharing a number, a named code is decoded by its name. -/
theorem decodeEvt_codeOf {L : StatLayout} {T : StatusTable} (hT : T.WellFormed L) (p : Machine.Status) :
    decodeEvt T (T.codeOf p) =
      if p = .srSlaAck then .evtAddrWOwn
      else if p = .srGcallAck then .evtAddrWGeneral
      else if p = .srDataAck then .evtDataRxOwn
      else if p = .srGcallDataAck then .evtDataRxGeneral
      else if p = .stSlaAck then .evtDataReqAddress
      else if p = .stDataAck then .evtDataReqContinuation
      else .evtOther (T.codeOf p) := by
  have hinj : ∀ q, T.codeOf p = T.codeOf q ↔ p = q := fun q => ⟨hT.2 p q, congrArg _⟩
  simp only [← hinj]
  rfl

@[simp] theorem wellFormed_evtOther {T : StatusTable} {key : Byte} :
    (Instr.evtOther key).wellFormed T = true ↔ key ∉ namedKeys T := by
  simp [Instr.wellFormed]

/-- A key that is none of the six named ones is `OTHER`. -/
theorem decodeEvt_of_notMem {T : StatusTable} {key : Byte} (h : key ∉ namedKeys T) :
    decodeEvt T key = .evtOther key := by
  simp only [namedKeys, List.mem_cons, List.not_mem_nil, or_false, not_or] at h
  obtain ⟨h1, h2, h3, h4, h5, h6⟩ := h
  simp [decodeEvt, h1, h2, h3, h4, h5, h6]

/-- What a key decodes to is well formed, and its encoding is the key. -/
theorem encode_decodeEvt (C : Chip) (key : Byte) :
    (decodeEvt C.status key).wellFormed C.status = true ∧ encode C (decodeEvt C.status key) = .evt key := by
  unfold decodeEvt
  split_ifs with h1 h2 h3 h4 h5 h6
  exacts [⟨rfl, congrArg _ h1.symm⟩, ⟨rfl, congrArg _ h2.symm⟩, ⟨rfl, congrArg _ h3.symm⟩,
    ⟨rfl, congrArg _ h4.symm⟩, ⟨rfl, congrArg _ h5.symm⟩, ⟨rfl, congrArg _ h6.symm⟩,
    ⟨wellFormed_evtOther.mpr (by simp [namedKeys, h1, h2, h3, h4, h5, h6]), rfl⟩]

/-! ### Decoder and encoder are inverse (R108, R114) -/

/-- Settles O2: an operation word lies in the format of its opcode and each operand reads back from its
place; a control word reads back its bits; a named key is decoded by its name. -/
theorem decodeOfEncodeIsTheInstruction : Obligations.DecodeOfEncodeIsTheInstruction := by
  intro C i hC hi
  obtain ⟨hctrl, -, -, -, hstatus⟩ := hC
  have hkey := decodeEvt_codeOf hstatus
  cases i with
  | configureMaster p k => exact (inFormat_OPC 0x1 p k).decodeOp_eq .configureMaster (by simp)
  | configureSlave a => exact (inFormat_OPR 0x2 a).decodeOp_eq .configureSlave (by simp)
  | start => exact (inFormat_OPN 0x3).decodeOp_eq .start rfl
  | stop => exact (inFormat_OPN 0x4).decodeOp_eq .stop rfl
  | writeByte b => exact (inFormat_OPB 0x5 b).decodeOp_eq .writeByte (by simp)
  | readByte a => exact (inFormat_OPA 0x6 a).decodeOp_eq .readByte (by simp)
  | armForReply => exact (inFormat_OPN 0x7).decodeOp_eq .armForReply rfl
  | loadData b => exact (inFormat_OPB 0x8 b).decodeOp_eq .loadData (by simp)
  | readData => exact (inFormat_OPN 0x9).decodeOp_eq .readData rfl
  | setAck a => exact (inFormat_OPA 0xA a).decodeOp_eq .setAck (by simp)
  | clearEvent => exact (inFormat_OPN 0xB).decodeOp_eq .clearEvent rfl
  | recover => exact (inFormat_OPN 0xC).decodeOp_eq .recover rfl
  | writeCommand a b => exact (inFormat_OPRB 0xD a b).decodeOp_eq .writeCommand (by simp)
  | readResponse a => exact (inFormat_OPR 0xE a).decodeOp_eq .readResponse (by simp)
  | readStatus => exact (inFormat_OPN 0xF).decodeOp_eq .readStatus rfl
  | ctrlConfig e p w n q => exact decodeCtrl_config hctrl e p w n q
  | ctrlContinue e w q => exact decodeCtrl_continue hctrl e w q
  | ctrlStart e w q => exact decodeCtrl_start hctrl e w q
  | ctrlStop e w q => exact decodeCtrl_stop hctrl e w q
  | evtAddrWOwn => exact congrArg Except.ok (hkey .srSlaAck)
  | evtAddrWGeneral => exact congrArg Except.ok (hkey .srGcallAck)
  | evtDataRxOwn => exact congrArg Except.ok (hkey .srDataAck)
  | evtDataRxGeneral => exact congrArg Except.ok (hkey .srGcallDataAck)
  | evtDataReqAddress => exact congrArg Except.ok (hkey .stSlaAck)
  | evtDataReqContinuation => exact congrArg Except.ok (hkey .stDataAck)
  | evtOther key => exact congrArg Except.ok (decodeEvt_of_notMem (wellFormed_evtOther.mp hi))

/-- An operation word that decodes is the encoding of its operation. -/
theorem encode_of_decodeOp {w : OpWord} {i : Instr} (h : decodeOp w = .ok i) (C : Chip) :
    i.wellFormed C.status = true ∧ encode C i = .op w := by
  obtain ⟨m, read, hf, hm, rfl⟩ := decodeOp_eq_ok h
  exact ⟨wellFormed_of_format hf C.status, encode_of_format hf rfl hm C⟩

/-- A control word that decodes is the encoding of its class. -/
theorem encode_of_decodeCtrl {C : Chip} (hL : C.ctrl.WellFormed) {v : Byte} {i : Instr}
    (h : decodeCtrl C.ctrl v = .ok i) : i.wellFormed C.status = true ∧ encode C i = .ctrl v := by
  obtain ⟨hr, hclass⟩ := decodeCtrl_cases _ _ h
  have hv := ctrlWord_of_bits hL v hr
  obtain ⟨hi, hs, rfl⟩ | ⟨hi, hn, hclass⟩ := hclass
  · rw [hi, hs] at hv
    exact ⟨rfl, congrArg _ hv⟩
  · obtain ⟨hs, hp, rfl⟩ | ⟨hs, hp, rfl⟩ | ⟨hs, hp, rfl⟩ := hclass
    all_goals
      rw [hi, hn, hs, hp] at hv
      exact ⟨rfl, congrArg _ hv⟩

/-- Settles O3, format by format. -/
theorem encodeOfDecodeIsTheWord : Obligations.EncodeOfDecodeIsTheWord := by
  refine ⟨fun C c i hL h => ?_, fun key => ⟨fun hkey => ?_, fun C => ⟨_, rfl⟩⟩⟩
  · cases c with
    | op w => exact encode_of_decodeOp h C
    | ctrl v => exact encode_of_decodeCtrl hL h
    | evt key =>
      obtain rfl := Except.ok.inj h
      exact encode_decodeEvt C key
  · exact congrArg Except.ok (decodeEvt_of_notMem (T := standardStatus) hkey)

/-! ### Operation words (R105–R107) -/

/-- Settles O4: opcode 0 has no row, and every row has the mask and the name the tables give its opcode. -/
theorem operationWordsDecodeByOpcodeAndMask : Obligations.OperationWordsDecodeByOpcodeAndMask := by
  intro w op mask name
  refine ⟨fun h => decodeOp_of_opcode_zero (BitVec.eq_of_toNat_eq h), fun h => ?_⟩
  obtain ⟨m, read, hf⟩ := exists_opFormat (op := w.extractLsb' 28 4) fun h0 => h (congrArg BitVec.toNat h0)
  have htables : mask = some m ∧ name = some (read w).opKind := by
    clear h
    unfold mask name op
    generalize w.extractLsb' 28 4 = opcode at hf
    cases hf <;> exact ⟨rfl, rfl⟩
  obtain ⟨hmask, hname⟩ := htables
  have hdecode := decodeOp_of_format hf rfl
  exact ⟨m, hmask, fun hout => hdecode.trans (ifFormat_of_outside hout),
    fun hin => ⟨read w, hdecode.trans (ifFormat_of_inMask hin), hname⟩⟩

/-! ### Address bytes (R100, R101) -/

/-- The fields of `SLA8(addr, dir)`. -/
theorem sla8_fields (a : Addr) (dir : Bool) :
    (Machine.sla8 a dir).getLsbD 0 = dir ∧ (Machine.sla8 a dir).extractLsb' 1 7 = a := by
  constructor
  · simp [Machine.sla8]
  · refine BitVec.eq_of_getLsbD_eq fun i hi => ?_
    interval_cases i <;> simp [Machine.sla8]

/-- The fields of `OADR8(addr)` in the spec's layout. -/
theorem oadr8_fields (a : Addr) :
    (Machine.oadr8 standardOadr a).getLsbD 0 = false ∧
    (Machine.oadr8 standardOadr a).extractLsb' 1 7 = a := by
  constructor
  · simp [Machine.oadr8, standardOadr]
  · refine BitVec.eq_of_getLsbD_eq fun i hi => ?_
    interval_cases i <;> simp [Machine.oadr8, standardOadr]

/-- Settles O7: bit 23 lies outside the masks of the formats with an address. -/
theorem addressBytesCarryAddressAndDirection : Obligations.AddressBytesCarryAddressAndDirection := by
  refine ⟨fun a dir => ?_, fun w hw hop => ?_⟩
  · obtain ⟨hdir, haddr⟩ := sla8_fields a dir
    exact ⟨hdir, haddr, oadr8_fields a⟩
  · obtain hop | hop | hop := hop
    · exact decodeOp_of_bit_outside .configureSlave hop (by decide) rfl hw
    · exact decodeOp_of_bit_outside .writeCommand hop (by decide) rfl hw
    · exact decodeOp_of_bit_outside .readResponse hop (by decide) rfl hw

end Sys2Proof

namespace Sys2Proof.Machine

/-! ### Control words and their reserved ones (R92, R93) -/

/-- A control word's class by its bits, in any layout (R92). -/
theorem decodeCtrl_of_bits {L : CtrlLayout} {v : Byte} (hr : ctrlR L v = false) :
    (ctrlI L v = false → ctrlS L v = false →
      decodeCtrl L v = .ok (.ctrlConfig (ctrlE L v) (ctrlP L v) (ctrlW L v) (ctrlN L v) (ctrlQ L v))) ∧
    (ctrlI L v = true → ctrlN L v = true →
      (ctrlS L v = false → ctrlP L v = false →
        decodeCtrl L v = .ok (.ctrlContinue (ctrlE L v) (ctrlW L v) (ctrlQ L v))) ∧
      (ctrlS L v = true → ctrlP L v = false →
        decodeCtrl L v = .ok (.ctrlStart (ctrlE L v) (ctrlW L v) (ctrlQ L v))) ∧
      (ctrlS L v = false → ctrlP L v = true →
        decodeCtrl L v = .ok (.ctrlStop (ctrlE L v) (ctrlW L v) (ctrlQ L v)))) := by
  refine ⟨fun hi hs => ?_, fun hi hn => ⟨fun hs hp => ?_, fun hs hp => ?_, fun hs hp => ?_⟩⟩
  · simp [decodeCtrl, hr, hi, hs]
  all_goals simp [decodeCtrl, hr, hi, hs, hp, hn]

/-- The reserved control words of R93. -/
theorem reservedWord_iff (L : CtrlLayout) (v : Byte) (sto : Bool) :
    reservedWord L v sto = true ↔
      ctrlR L v = true ∨ (ctrlI L v = true ∧ ctrlS L v = true ∧ ctrlP L v = true) ∨
      (ctrlI L v = true ∧ ctrlN L v = false) ∨ (ctrlI L v = false ∧ ctrlS L v = true) ∨
      (ctrlI L v = false ∧ ctrlP L v ≠ sto) := by
  simp [reservedWord, or_assoc, and_assoc]

theorem ctrlWrite_reserved (cfg : Config) {v : Byte} {d : Device}
    (h : reservedWord cfg.chip.ctrl v d.ctrl.sto = true) :
    ctrlWrite cfg v d = .refuse .reservedControlWord := by
  simp [ctrlWrite, h]

/-- A direct write of a control word that the control write refuses, on a device that is no slave: the
decoder rejects the word, or its class runs the control write. -/
theorem writeCtrl_of_refused {s : State} {d : Device} (hL : s.cfg.chip.ctrl.WellFormed)
    (hd : s.devs[s.cur]? = some d) (hr : d.role ≠ .slave) {v : Byte}
    (hv : ctrlWrite s.cfg v d = .refuse .reservedControlWord) :
    writeCtrl v s = .next (s.setCur (d.refuse .reservedControlWord)) := by
  unfold writeCtrl
  cases hi : decodeCtrl s.cfg.chip.ctrl v with
  | ok i =>
    obtain ⟨v', heq, hexec⟩ := exec_directWrite v hi
    obtain rfl := heq hL
    show exec i s = _
    rw [hexec, directWrite, onCur_some _ hd]
    simp [touchesSlave, hr, hv]
  | error r =>
    show onCur s _ = _
    rw [onCur_some _ hd, accessRegister_of_role hr]

/-- Settles O5: the classes by the decoder's cases; a reserved word by the control write's first check. -/
theorem controlWordsSelectTheirClassOrAreRefused :
    Obligations.ControlWordsSelectTheirClassOrAreRefused := by
  refine ⟨fun v hr => decodeCtrl_of_bits (L := standardCtrl) hr, fun s k d v hC hd hres => ?_⟩
  have hL : s.cfg.chip.ctrl = standardCtrl := by rw [hC]; rfl
  have hword : reservedWord s.cfg.chip.ctrl v d.ctrl.sto = true := by
    rw [hL]; exact (reservedWord_iff standardCtrl v d.ctrl.sto).mpr hres
  have hwrite := ctrlWrite_reserved s.cfg hword
  refine ⟨hwrite, fun hh hrole => ?_⟩
  rw [stepTurn_writeCtrl hd hh (by rw [hC]; rfl)]
  exact writeCtrl_of_refused (s := s.focus k .host) (hL ▸ standardCtrl_wellFormed) hd hrole hwrite

/-! ### The phase sets (R97) -/

/-- Settles O10: the names of a well-formed table read back, and each set is its list of codes. -/
theorem phaseSetsAreTheSpecsCodes : Obligations.PhaseSetsAreTheSpecsCodes :=
  ⟨rfl, nameOf_codeOf standardStatus_wellFormed, rfl, rfl, rfl, rfl, rfl, rfl, rfl, rfl, rfl⟩

/-! ### Illegal words and the context checks (R107, R215) -/

/-- An illegal operation word is refused before any context check (R107, R347). -/
theorem stepTurn_issue_illegal {s : State} {k : Nat} {d : Device} {w : OpWord} {r : Reject}
    (hd : s.devs[k]? = some d) (hh : d.halted .host = false) (hw : decodeOp w = .error r) :
    stepTurn (.issue k .host w) s = .next (s.after k .host (d.refuse .illegalOperationWord)) := by
  rw [stepTurn_issue_host hd hh, hw]
  exact onCur_some (s := s.focus k .host) _ hd

section
variable {s : State} {d : Device} {op : OpKind} {r : RefuseReason}
  (hd : s.devs[s.cur]? = some d)
  (hc : contextCheck (roleOnBus s.cfg s.cur) s.issuer op d = some r)
include hd hc

theorem multiLine_of_contextCheck (st : Stage) :
    multiLine op st s = .next (s.setCur (d.refuse r)) := by
  simp only [multiLine, onCur_some _ hd, hc]

theorem singleLine_of_contextCheck (st : Stage) (line : Device → Eff) :
    singleLine op st line s = .next (s.setCur (d.refuse r)) := by
  simp only [singleLine, onCur_some _ hd, hc]

/-- An operation whose context check fails is refused with the check's reason (R215). -/
theorem exec_of_contextCheck {i : Instr} (hi : i.opKind = some op) :
    exec i s = .next (s.setCur (d.refuse r)) := by
  cases i with
  | configureMaster | configureSlave | start | writeByte | readByte | setAck | writeCommand
  | readResponse =>
    cases hi
    exact multiLine_of_contextCheck hd hc _
  | stop | armForReply | loadData | readData | clearEvent | recover | readStatus =>
    cases hi
    exact singleLine_of_contextCheck hd hc _ _
  | ctrlConfig | ctrlContinue | ctrlStart | ctrlStop | evtAddrWOwn | evtAddrWGeneral | evtDataRxOwn
  | evtDataRxGeneral | evtDataReqAddress | evtDataReqContinuation | evtOther => cases hi

end

/-- A master's host may issue all but the slave's operations (R215.2). -/
theorem mem_masterOps_iff (op : OpKind) :
    op ∈ masterOps ↔ op ∉ [.configureSlave, .armForReply, .clearEvent, .recover] := by
  cases op <;> decide

/-- The role a closed bus does not give the device (R310). -/
theorem configuresOtherRole_iff (cfg : Config) (k : Nat) (op : OpKind) :
    configuresOtherRole (roleOnBus cfg k) op = true ↔
      cfg.busMode = .closedBus ∧ op = (if k = 0 then .configureSlave else .configureMaster) := by
  cases hb : cfg.busMode with
  | openBus => simp [configuresOtherRole, roleOnBus, hb]
  | closedBus => by_cases hk : k = 0 <;> simp [configuresOtherRole, roleOnBus, hb, hk]

theorem inFlightCheck_of_busy {d : Device} (h : d.stage ≠ .idle) :
    inFlightCheck d = some .operationInFlight := if_neg h

section
variable {busRole : Option Role} {who : Issuer} {op : OpKind} {d : Device}

/-- R215.1; log entry 13 for a handler. -/
theorem contextCheck_unconfigured (hr : d.role = .unconfigured)
    (h : ¬ (op = .configureMaster ∨ op = .configureSlave) ∨ who = .handler) :
    contextCheck busRole who op d = some .notConfigured := by
  cases who with
  | host => simp [contextCheck, hr, if_neg (h.resolve_right nofun)]
  | handler => simp [contextCheck, hr]

/-- R215.2. -/
theorem contextCheck_master (hr : d.role = .master) :
    contextCheck busRole .host op d =
      if op ∈ masterOps then inFlightCheck d else some .roleConflict := by
  simp [contextCheck, hr]

/-- R215.3: what a slave's host may not issue. -/
theorem contextCheck_slave_host (hr : d.role = .slave)
    (h : ¬ (op = .configureMaster ∨ op = .configureSlave)) :
    contextCheck busRole .host op d = some .hostTouchesSlaveTransceiver := by
  obtain ⟨hm, hs⟩ := not_or.mp h
  simp [contextCheck, hr, hm, hs]

/-- R215.3: what a slave's handler does not issue. -/
theorem contextCheck_slave_handler (hr : d.role = .slave) (h : op ∉ handlerOps) :
    contextCheck busRole .handler op d = some .hostTouchesSlaveTransceiver := by
  simp [contextCheck, hr, h]

/-- A configure for the role the bus does not give the device (log entry 30), unless a master's, which
R215.2 answers. -/
theorem contextCheck_otherRole (hr : d.role ≠ .master) (h : configuresOtherRole busRole op = true) :
    contextCheck busRole .host op d = some .roleConflict := by
  have hop : op = .configureMaster ∨ op = .configureSlave := by
    cases op <;> simp_all [configuresOtherRole]
  cases hrole : d.role with
  | unconfigured => simp [contextCheck, hrole, hop, h]
  | master => exact absurd hrole hr
  | slave => obtain rfl | rfl := hop <;> simp [contextCheck, hrole, h]

/-- R215.4. -/
theorem contextCheck_configure_busy (hs : d.stage ≠ .idle) (h : configuresOtherRole busRole op = false)
    (hop : (d.role = .unconfigured ∧ (op = .configureMaster ∨ op = .configureSlave)) ∨
      (d.role = .slave ∧ op = .configureSlave)) :
    contextCheck busRole .host op d = some .operationInFlight := by
  obtain ⟨hr, hop⟩ | ⟨hr, hop⟩ := hop
  · simp [contextCheck, hr, hop, h, inFlightCheck_of_busy hs]
  · simp [contextCheck, hr, hop, hop ▸ h, inFlightCheck_of_busy hs]

end

/-- Settles O12: each clause is one outcome of `contextCheck`, which refuses the operation. -/
theorem illegalWordsAndContextChecksAreRefusedInOrder :
    Obligations.IllegalWordsAndContextChecksAreRefusedInOrder := by
  refine ⟨fun s k d w hd hh hw => stepTurn_issue_illegal hd hh hw, fun s d i op hd hi => ?_⟩
  intro refusedWith configures otherRole
  have hother : configuresOtherRole (roleOnBus s.cfg s.cur) op = true ↔ otherRole :=
    configuresOtherRole_iff s.cfg s.cur op
  have hrefused : ∀ {who r}, s.issuer = who →
      contextCheck (roleOnBus s.cfg s.cur) who op d = some r → refusedWith r := by
    rintro _ r rfl hc
    exact exec_of_contextCheck hd hc hi
  refine ⟨fun hr h => hrefused rfl (contextCheck_unconfigured hr h), fun hr hw hop => ?_,
    fun hr hw h => hrefused hw (contextCheck_slave_host hr h),
    fun hr hw h => hrefused hw (contextCheck_slave_handler hr h),
    fun hr hw h => hrefused hw (contextCheck_otherRole hr (hother.mpr h)), fun hw hs hno hop => ?_⟩
  · have hmem : op ∉ masterOps := by simp [mem_masterOps_iff, hop]
    exact hrefused hw (by rw [contextCheck_master hr, if_neg hmem])
  · refine hrefused hw ?_
    have hsame : d.role ≠ .master → configuresOtherRole (roleOnBus s.cfg s.cur) op = false :=
      fun hr => Bool.eq_false_iff.mpr fun h => hno hr (hother.mp h)
    obtain ⟨hr, hop⟩ | ⟨hr, hop⟩ | ⟨hr, hop⟩ := hop
    · exact contextCheck_configure_busy hs (hsame (by simp [hr])) (.inl ⟨hr, hop⟩)
    · exact contextCheck_configure_busy hs (hsame (by simp [hr])) (.inr ⟨hr, hop⟩)
    · rw [contextCheck_master hr, if_pos ((mem_masterOps_iff op).mpr hop), inFlightCheck_of_busy hs]

end Sys2Proof.Machine

namespace Sys2Proof.Machine

/-! ### Control words written directly (R141–R148, R345) -/

/-- The field updates of R141 with a word's own bits, in any layout that gives every field a bit of its
own. -/
theorem writeFields_ctrlWord {L : CtrlLayout} (hL : L.WellFormed) (d : Device) (i e s p w n q : Bool) :
    d.writeFields L (ctrlWord L i e s p w n q) =
      { d with ctrl := { d.ctrl with ea := e, sta := s, sto := p, en := n, ie := q } } := by
  simp [Device.writeFields, hL]

theorem Pend.isStop_iff (p : Pend) : p.isStop = true ↔ p = .stop ∨ p = .stopThenStart := by
  cases p <;> simp [Pend.isStop]

theorem Pend.isStop_eq_false {p : Pend} (h : p ≠ .stop) (h' : p ≠ .stopThenStart) : p.isStop = false := by
  simp [← Bool.not_eq_true, Pend.isStop_iff, h, h']

section
variable {s : State} {d d' : Device} {i : Instr} {v : Byte}

/-- A direct control write by an issuer that may touch the transceiver is the control write (R141). -/
theorem directWrite_of_mayTouch (hd : s.devs[s.cur]? = some d) (ht : s.mayTouch d) :
    directWrite v s = .next (s.setCur ((ctrlWrite s.cfg v d).settle s.issuer.agent d)) := by
  have hno : touchesSlave s.issuer d = false := by
    simp only [touchesSlave, Bool.and_eq_false_imp, beq_iff_eq, beq_eq_false_iff_ne]
    exact ht
  rw [directWrite, onCur_some _ hd, hno]
  rfl

/-- A control word of a slave's host is refused, whatever the word (R71, R215.3). -/
theorem directWrite_of_slave (hd : s.devs[s.cur]? = some d) (hr : d.role = .slave)
    (hi : s.issuer = .host) :
    directWrite v s = .next (s.setCur (d.refuse .hostTouchesSlaveTransceiver)) := by
  rw [directWrite, onCur_some _ hd]
  simp [touchesSlave, hi, hr]

variable (hd : s.devs[s.cur]? = some d) (ht : s.mayTouch d) (hx : exec i s = directWrite v s)
include hd ht hx

theorem directlyWrites_of_done (hw : ctrlWrite s.cfg v d = .done d') : s.directlyWrites i v d d' :=
  ⟨hw, by rw [hx, directWrite_of_mayTouch hd ht, hw]; rfl⟩

theorem exec_of_writeFault {r : FaultReason} (hw : ctrlWrite s.cfg v d = .fault r d) :
    exec i s = .next (s.setCur (d.raise r s.issuer.agent)) := by
  rw [hx, directWrite_of_mayTouch hd ht, hw]
  rfl

theorem exec_of_writeRefuse {r : RefuseReason} (hw : ctrlWrite s.cfg v d = .refuse r) :
    exec i s = .next (s.setCur (d.refuse r)) := by
  rw [hx, directWrite_of_mayTouch hd ht, hw]
  rfl

end

/-! ### The four classes of control word -/

/-- Settles O15: `CONFIG` by the value of `EN` before and after the write. -/
theorem configWriteUpdatesTheEnables : Obligations.ConfigWriteUpdatesTheEnables := by
  intro s d ea sto wc en ie hL hd ht i v
  have hx : exec i s = directWrite v s := rfl
  have hw := ctrlWrite_config s.cfg d hL ea sto wc en ie
  rw [writeFields_ctrlWord hL] at hw
  refine ⟨fun hsto => ?_, fun hsto => exec_of_writeRefuse hd ht hx (hw.trans (if_neg hsto))⟩
  subst hsto
  rw [if_pos rfl] at hw
  refine ⟨fun hen => ?_, fun hen hoff => ?_, fun hen hon => ?_⟩ <;> subst hen <;>
    refine directlyWrites_of_done hd ht hx (hw.trans ?_)
  · rfl
  · simp [configCmd, hoff, Device.unaddressed]
  · simp [configCmd, hon]

section
variable {cfg : Config} {d w : Device}

theorem startCmd_of_noStop (h : w.pend.isStop = false) : startCmd cfg d w = .done (w.setPend .start) := by
  simp [startCmd, h]

theorem startCmd_serialise (h : w.pend.isStop = true) (ho : cfg.overlap = .serialise) :
    startCmd cfg d w = .done ((w.setPend .stopThenStart).setSto true) := by
  simp [startCmd, h, ho]

theorem startCmd_fault (h : w.pend.isStop = true) (ho : cfg.overlap = .fault) :
    startCmd cfg d w = .fault .startDuringStop d := by
  simp [startCmd, h, ho]

end

/-- Settles O16: `START` by the pending command and, with a stop pending, by `STOP_START_OVERLAP`. -/
theorem startWriteRequestsAStart : Obligations.StartWriteRequestsAStart := by
  intro s d ea wc ie hL hd hb ht i v
  have hx : exec i s = directWrite v s := rfl
  have hw := ctrlWrite_start s.cfg d hL ea wc ie hb
  rw [writeFields_ctrlWord hL] at hw
  refine ⟨fun h h' => ?_, fun h => ⟨fun ho => ?_, fun ho => ?_⟩⟩
  · exact directlyWrites_of_done hd ht hx
      (hw.trans (startCmd_of_noStop (Pend.isStop_eq_false h h')))
  · exact directlyWrites_of_done hd ht hx (hw.trans (startCmd_serialise ((Pend.isStop_iff _).mpr h) ho))
  · exact exec_of_writeFault hd ht hx (hw.trans (startCmd_fault ((Pend.isStop_iff _).mpr h) ho))

section
variable {w : Device}

theorem stopCmd_of_stop (h : w.pend.isStop = true) : stopCmd w = w := by simp [stopCmd, h]

theorem stopCmd_of_noStop (h : w.pend.isStop = false) :
    stopCmd w = if w.phase.isOwner then w.setPend .stop else (w.setSto false).unaddressed := by
  simp [stopCmd, h]

end

/-- Settles O17: `STOP` by the pending command and by whether the device holds the bus. -/
theorem stopWriteStopsOrRecovers : Obligations.StopWriteStopsOrRecovers := by
  intro s d ea wc ie hL hd hb ht i v ctrl
  have hx : exec i s = directWrite v s := rfl
  have hw := ctrlWrite_stop s.cfg d hL ea wc ie hb
  rw [writeFields_ctrlWord hL] at hw
  have hdone : ∀ {d' : Device}, stopCmd { d with ctrl := ctrl true } = d' → s.directlyWrites i v d d' :=
    fun h => directlyWrites_of_done hd ht hx (hw.trans (congrArg Eff.done h))
  refine ⟨fun h => hdone (stopCmd_of_stop ((Pend.isStop_iff _).mpr h)), fun h h' => ?_⟩
  have hcmd := stopCmd_of_noStop (w := { d with ctrl := ctrl true }) (Pend.isStop_eq_false h h')
  exact ⟨fun ho => hdone (hcmd.trans (if_pos ho)),
    fun ho => hdone (hcmd.trans (if_neg (by simp [ho])))⟩

/-! ### `CONTINUE`, class by class of phases (R144) -/

section
variable {d w : Device}

theorem continueCmd_of_noEvent (hi : d.ctrl.int = false) :
    continueCmd d w = .fault .continueWithoutEvent d := by simp [continueCmd, hi]

variable (hi : d.ctrl.int = true)
include hi

/-- An address or master transmitter's phase sends `DATA`. -/
theorem continueCmd_of_transmit (h : w.phase.isAddr = true ∨ w.phase.isMt = true) :
    continueCmd d w = .done { w with txbyte := some w.data, pend := .byte } := by
  simp [continueCmd, hi, h]

/-- A receiver's phase, master's or slave's, latches the acknowledge. -/
theorem continueCmd_of_receive
    (h : w.phase.isMr = true ∨ w.phase.isSrOwn = true ∨ w.phase.isSrGc = true) :
    continueCmd d w = .done { w with ack := some w.ctrl.ea, pend := .byte } := by
  have hno : w.phase.isAddr = false ∧ w.phase.isMt = false ∧
      (w.phase.isMr = true ∨ w.phase.isMr = false ∧ w.phase.isMrLast = false ∧
        w.phase ≠ .arbLost ∧ (w.phase.isSrOwn = true ∨ w.phase.isSrGc = true)) := by
    revert h; cases w.phase <;> decide
  obtain ⟨ha, ht, hr | ⟨hr, hl, hne, hs⟩⟩ := hno
  · simp [continueCmd, hi, ha, ht, hr]
  · simp [continueCmd, hi, ha, ht, hr, hl, hne, hs]

/-- After a last byte there is no further one. -/
theorem continueCmd_of_lastByte (h : w.phase.isMrLast = true) :
    continueCmd d w = .fault .continueAfterLastByte d := by
  have hno : w.phase.isAddr = false ∧ w.phase.isMt = false ∧ w.phase.isMr = false := by
    revert h; cases w.phase <;> decide
  simp [continueCmd, hi, hno, h]

/-- A lost arbitration or a slave's ended transfer leaves the bus. -/
theorem continueCmd_of_end (h : w.phase = .arbLost ∨ w.phase.isSrEnd = true) :
    continueCmd d w = .done w.unaddressed := by
  rcases h with h | h
  · simp only [continueCmd, hi, h]
    rfl
  · have hno : w.phase.isAddr = false ∧ w.phase.isMt = false ∧ w.phase.isMr = false ∧
        w.phase.isMrLast = false ∧ w.phase ≠ .arbLost ∧ w.phase.isSrOwn = false ∧
        w.phase.isSrGc = false ∧ w.phase.isSt = false := by
      revert h; cases w.phase <;> decide
    simp [continueCmd, hi, hno, h]

/-- A slave transmitter's phase sends `DATA` and latches the acknowledge (log entry 9). -/
theorem continueCmd_of_reply (h : w.phase.isSt = true) :
    continueCmd d w = .done { w with txbyte := some w.data, ack := some w.ctrl.ea, pend := .byte } := by
  have hno : w.phase.isAddr = false ∧ w.phase.isMt = false ∧ w.phase.isMr = false ∧
      w.phase.isMrLast = false ∧ w.phase ≠ .arbLost ∧ w.phase.isSrOwn = false ∧
      w.phase.isSrGc = false := by
    revert h; cases w.phase <;> decide
  simp [continueCmd, hi, hno, h]

/-- After a bus error a byte step follows. -/
theorem continueCmd_of_busError (h : w.phase = .busError) :
    continueCmd d w = .done { w with pend := .byte } := by
  simp only [continueCmd, hi, h]
  rfl

/-- The other phases have no byte step. -/
theorem continueCmd_of_other
    (h : w.phase ∈ [Status.codeD0, .codeD8, .codeE0, .codeE8, .codeF0, .noInfo]) :
    continueCmd d w = .fault .continueWithoutEvent d := by
  simp only [List.mem_cons, List.not_mem_nil, or_false] at h
  rcases h with h | h | h | h | h | h <;> simp only [continueCmd, hi, h] <;> rfl

end

/-- Settles O18: `CONTINUE` by the event flag and the class of the phase. -/
theorem continueWriteTakesTheNextByteStep : Obligations.ContinueWriteTakesTheNextByteStep := by
  intro s d ea wc ie hL hd hb ht i v w
  have hx : exec i s = directWrite v s := rfl
  have hw := ctrlWrite_continue s.cfg d hL ea wc ie hb
  rw [writeFields_ctrlWord hL] at hw
  have hdone : ∀ {d' : Device}, continueCmd d w = .done d' → s.directlyWrites i v d d' :=
    fun h => directlyWrites_of_done hd ht hx (hw.trans h)
  have hfault : ∀ {r}, continueCmd d w = .fault r d →
      exec i s = .next (s.setCur (d.raise r s.issuer.agent)) :=
    fun h => exec_of_writeFault hd ht hx (hw.trans h)
  refine ⟨fun hi => hfault (continueCmd_of_noEvent hi), fun hi => ?_⟩
  exact ⟨fun h => hdone (continueCmd_of_transmit hi h), fun h => hdone (continueCmd_of_receive hi h),
    fun h => hfault (continueCmd_of_lastByte hi h), fun h => hdone (continueCmd_of_end hi h),
    fun h => hdone (continueCmd_of_reply hi h), fun h => hdone (continueCmd_of_busError hi h),
    fun h => hfault (continueCmd_of_other hi h)⟩

/-- When a command word faults (R141). -/
theorem Device.busy_iff (d : Device) :
    d.busy = true ↔ (d.pend = .start ∨ d.pend = .byte) ∧ d.ctrl.int = false ∧
      ¬ (d.pend = .byte ∧ d.phase.isAddressed = true) := by
  simp only [Device.busy, Bool.and_eq_true, Bool.or_eq_true, Bool.not_eq_true', Bool.and_eq_false_iff,
    beq_iff_eq, beq_eq_false_iff_ne, and_assoc, not_and_or, Bool.not_eq_true, ne_eq]

/-- Settles O19: every command word meets the busy test, every control word of a slave's host its
refusal. -/
theorem commandWhileBusyFaults : Obligations.CommandWhileBusyFaults := by
  intro s d ea sto wc en ie i hL hd
  refine ⟨d.busy_iff, fun hmem ht hb => ?_, fun hmem hr hi => ?_⟩
  · simp only [List.mem_cons, List.not_mem_nil, or_false] at hmem
    rcases hmem with rfl | rfl | rfl <;>
      exact exec_of_writeFault hd ht rfl
        (ctrlWrite_busy s.cfg d _ (by simp [reservedWord, hL]) (by simp [hL]) hb)
  · simp only [List.mem_cons, List.not_mem_nil, or_false] at hmem
    rcases hmem with rfl | rfl | rfl | rfl <;> exact directWrite_of_slave hd hr hi

end Sys2Proof.Machine

namespace Sys2Proof.Machine

/-! ### Draws by number and by name (R97) -/

theorem Status.code_injective : Function.Injective Status.code := standardStatus_wellFormed.2

theorem Status.code_mem_map {p : Status} {names : List Status} :
    p.code ∈ names.map Status.code ↔ p ∈ names :=
  List.mem_map_of_injective Status.code_injective

/-- `ARB(ea, gce)` of `40_transceiver.md` by number is the model's by name. -/
theorem map_code_arbCodes (ea g : Bool) : (arbCodes ea g).map Status.code = arbSet ea g := by
  cases ea <;> cases g <;> rfl

/-- The relations list the bus error last, the statements before `ARB`. -/
theorem append_append_perm (l arb z : List Byte) : (l ++ arb ++ z).Perm (l ++ z ++ arb) := by
  rw [List.append_assoc, List.append_assoc]
  exact List.perm_append_comm.append_left l

/-! ### The transceiver's steps on the open bus, one kind at a time (R150, R156, R161) -/

section
variable {O : OadrLayout} {code : Status} {b : Byte} {d : Device}

theorem drawn_some (cs : List Status) (go : Device) :
    (code ∈ cs → drawn (some cs) code d go = go) ∧ (code ∉ cs → drawn (some cs) code d go = d) := by
  constructor <;> intro h <;> simp [drawn, h]

/-- A completion's event, with the value `DATA` has after it (R150). -/
theorem complete_eq (code : Status) (b : Byte) (d : Device) :
    complete code b d =
      ({ d with data := if completionDrawsData d then b else d.data } : Device).event code := by
  unfold complete
  split <;> rfl

/-- A slave event, with the value `DATA` has after it (R161). -/
theorem slaveEvent_eq (code : Status) (b : Byte) (d : Device) :
    slaveEvent code b d =
      ({ d with data := if eventDrawsData code then b else d.data } : Device).event code := by
  unfold slaveEvent
  split <;> rfl

/-- While it is off, and while an event but no stop is pending, the transceiver takes no step (R148,
R161). -/
theorem xcvrStep_of_disabled
    (h : d.ctrl.en = false ∨ d.ctrl.int = true ∧ d.pend.isStop = false) : xcvrStep O code b d = d := by
  rcases h with h | ⟨hi, hp⟩
  · simp [xcvrStep, completionEnabled, stopEnabled, slaveEventEnabled, h]
  · simp [xcvrStep, completionEnabled, stopEnabled, slaveEventEnabled, hi, hp]

variable (hh : d.halted .xcvr = false)
include hh

theorem xcvrStep_of_completion (h : completionEnabled d = true) :
    xcvrStep O code b d = drawn (completionCodes O d) code d (complete code b d) := by
  simp [xcvrStep, hh, h]

theorem xcvrStep_of_stop (he : d.ctrl.en = true) (hp : d.pend.isStop = true) :
    xcvrStep O code b d = executeStop d := by
  have hno : completionEnabled d = false := by
    rcases (Pend.isStop_iff _).mp hp with h | h <;> simp [completionEnabled, h]
  simp [xcvrStep, hh, hno, stopEnabled, he, hp]

theorem xcvrStep_of_slaveEvent (h : slaveEventEnabled d = true) (hc : completionEnabled d = false) :
    xcvrStep O code b d = drawn (eventCodes O d) code d (slaveEvent code b d) := by
  have hno : stopEnabled d = false := by
    simp only [slaveEventEnabled, Bool.and_eq_true, Bool.or_eq_true, beq_iff_eq] at h
    rcases h.2 with ⟨hp, -⟩ | ⟨hp, -⟩ <;> simp [stopEnabled, hp, Pend.isStop]
  simp [xcvrStep, hh, hc, hno, h]

end

/-- A turn that draws from the codes `cs`, whose numbers are `codes`, takes exactly those. -/
theorem stepTurn_xcvr_of_drawn {s : State} {k : Nat} {d : Device} {code : Status} {b data : Byte}
    {cs : List Status} {codes : List Byte} (hd : s.devs[k]? = some d) (hb : s.cfg.busMode = .openBus)
    (hx : xcvrStep s.cfg.chip.oadr code b d =
      drawn (some cs) code d (({ d with data := data } : Device).event code))
    (hcs : (cs.map Status.code).Perm codes) :
    (code.code ∈ codes → stepTurn (.xcvr k code b) s = .next (s.after k .host
      { d with phase := code, pend := .none, data := data, ctrl := { d.ctrl with int := true } })) ∧
    (code.code ∉ codes → stepTurn (.xcvr k code b) s = .next (s.after k .host d)) := by
  have hmem : code.code ∈ codes ↔ code ∈ cs := hcs.mem_iff.symm.trans Status.code_mem_map
  obtain ⟨hin, hout⟩ := drawn_some (code := code) (d := d) cs (({ d with data := data } : Device).event code)
  rw [stepTurn_xcvr hb hd, hx]
  exact ⟨fun h => by rw [hin (hmem.mp h)]; rfl, fun h => by rw [hout (mt hmem.mpr h)]⟩

/-! ### The relation `C` (R160) -/

section
variable {O : OadrLayout} {d : Device}

theorem completionCodes_start (hp : d.pend = .start) :
    completionCodes O d = some [if d.phase.isOwner then .repStart else .start, .busError] := by
  simp [completionCodes, hp]

variable (hp : d.pend = .byte)
include hp

theorem completionCodes_addr {t : Byte} (h : d.phase.isAddr = true) (ht : d.txbyte = some t) :
    completionCodes O d = some ((if t.getLsbD 0 then [.mrSlaAck, .mrSlaNack] else [.mtSlaAck, .mtSlaNack]) ++
      arbCodes d.ctrl.ea (d.gce O) ++ [.busError]) := by
  simp [completionCodes, hp, h, ht]

theorem completionCodes_mt (h : d.phase.isMt = true) :
    completionCodes O d =
      some ([.mtDataAck, .mtDataNack] ++ arbCodes d.ctrl.ea (d.gce O) ++ [.busError]) := by
  have hno : d.phase.isAddr = false := by revert h; cases d.phase <;> decide
  simp [completionCodes, hp, h, hno]

theorem completionCodes_mr {a : Bool} (h : d.phase.isMr = true) (ha : d.ack = some a) :
    completionCodes O d = some ([if a then .mrDataAck else .mrDataNack] ++
      arbCodes d.ctrl.ea (d.gce O) ++ [.busError]) := by
  have hno : d.phase.isAddr = false ∧ d.phase.isMt = false := by revert h; cases d.phase <;> decide
  simp [completionCodes, hp, h, hno, ha]

theorem completionCodes_busError (h : d.phase = .busError) : completionCodes O d = some anyCodes := by
  simp only [completionCodes, hp, h]
  rfl

end

/-- Settles O36: a completion is enabled in each case, and draws from the relation `C`. -/
theorem completionsFollowTheRelation : Obligations.CompletionsFollowTheRelation := by
  intro s k d code b hd hb hh hen hint arb follows
  have hcase : ∀ {cs : List Status} {codes : List Byte} {data : Byte},
      (d.pend = .start ∨ d.pend = .byte ∧ (d.phase.isAddr = true ∨ d.phase.isMt = true ∨
        d.phase.isMr = true ∨ d.phase = .busError)) →
      completionCodes s.cfg.chip.oadr d = some cs → (cs.map Status.code).Perm codes →
      (if completionDrawsData d then b else d.data) = data → follows codes data := by
    rintro cs codes data hp hcs hperm rfl
    have hc : completionEnabled d = true := by simpa [completionEnabled, hen, hint, or_assoc] using hp
    exact stepTurn_xcvr_of_drawn hd hb
      (by rw [xcvrStep_of_completion hh hc, hcs, complete_eq]) hperm
  have hno : d.phase.isOwner = true → d.phase ≠ .busError := fun h => (Status.not_of_isOwner h).2.2
  have harb : ∀ l : List Status, ((l ++ arbCodes d.ctrl.ea (d.gce s.cfg.chip.oadr) ++ [Status.busError]).map
      Status.code).Perm (l.map Status.code ++ [0x00] ++ arb) := by
    intro l
    rw [List.map_append, List.map_append, map_code_arbCodes]
    exact append_append_perm _ _ _
  refine ⟨fun hp ho => ?_, fun hp ho => ?_, fun hp ha t ht => ?_, fun hp hm => ?_,
    fun hp hm a hack => ?_, fun hp hz => ?_⟩
  · refine hcase (.inl hp) (completionCodes_start hp) ?_ ?_
    · rw [ho]; exact .refl _
    · simp [completionDrawsData, hp, hno ho]
  · refine hcase (.inl hp) (completionCodes_start hp) ?_ ?_
    · rw [ho]; exact .refl _
    · simp [completionDrawsData, hp]
  · have hdraws : d.phase.isMr = false ∧ d.phase ≠ .busError := by
      revert ha; cases d.phase <;> decide
    refine hcase (.inr ⟨hp, .inl ha⟩) (completionCodes_addr hp ha ht) ?_ ?_
    · convert harb _ using 3
      split <;> rfl
    · simp [completionDrawsData, hdraws]
  · have hdraws : d.phase.isMr = false ∧ d.phase ≠ .busError := by
      revert hm; cases d.phase <;> decide
    refine hcase (.inr ⟨hp, .inr (.inl hm)⟩) (completionCodes_mt hp hm) (harb _) ?_
    simp [completionDrawsData, hdraws]
  · refine hcase (.inr ⟨hp, .inr (.inr (.inl hm))⟩) (completionCodes_mr hp hm hack) ?_ ?_
    · cases a <;> exact harb _
    · simp [completionDrawsData, hp, hm]
  · refine hcase (.inr ⟨hp, .inr (.inr (.inr hz))⟩) (completionCodes_busError hp hz) ?_ ?_
    · exact .of_eq (by decide)
    · simp [completionDrawsData, hz]

/-! ### Holds and stops -/

/-- Settles O37: with a stop pending only stop execution is enabled; the transceiver and the handler are
enabled by opposite values of `INT`. -/
theorem transceiverHoldsAndStops : Obligations.TransceiverHoldsAndStops := by
  refine ⟨fun s k d code b hd hb hh hen => ?_, fun s k d code b hd => ?_⟩
  · have hstop : d.pend.isStop = true →
        stepTurn (.xcvr k code b) s = .next (s.after k .host (executeStop d)) := fun hp => by
      rw [stepTurn_xcvr hb hd, xcvrStep_of_stop hh hen hp]
    refine ⟨fun hp => ?_, fun hp => ?_⟩ <;>
      · rw [hstop (by rw [hp]; rfl), executeStop, hp]
        rfl
  · have hstay : (d.ctrl.en = false ∨ d.ctrl.int = true ∧ d.pend.isStop = false) →
        s.cfg.busMode = .openBus → stepTurn (.xcvr k code b) s = .next (s.after k .host d) := by
      intro h hb
      rw [stepTurn_xcvr hb hd, xcvrStep_of_disabled h]
    refine ⟨fun he => hstay (.inl he), fun hi h h' => hstay (.inr ⟨hi, Pend.isStop_eq_false h h'⟩),
      fun hb => ?_, fun hb => ?_, fun he => ?_⟩
    · simp [stepTurn_eq, runTurn, xcvrTurn, hb, State.focus]
    · simp [stepTurn_eq, runTurn, jointTurn, hb]
    · obtain ⟨-, hi, -⟩ := d.handlerEnabled_iff.mp he
      simp [completionEnabled, slaveEventEnabled, hi]

/-! ### The relation `E` (R165) -/

section
variable {O : OadrLayout} {d : Device}

/-- Off the bus the device can be addressed, if it is armed, and the bus can fail. -/
theorem eventCodes_offBus (hp : d.pend = .none) :
    ∃ cs, eventCodes O d = some cs ∧ (cs.map Status.code).Perm (if d.ctrl.ea then
      (if d.gce O then [0x60, 0x70, 0xA8, 0x00] else [0x60, 0xA8, 0x00]) else [0x00]) := by
  refine ⟨_, by rw [eventCodes, hp], ?_⟩
  cases d.ctrl.ea <;> cases d.gce O <;> decide

/-- An addressed slave's next event. -/
theorem eventCodes_addressed {a : Bool} (hp : d.pend = .byte) (ha : d.ack = some a) :
    (d.phase.isSrOwn = true →
      eventCodes O d = some [if a then .srDataAck else .srDataNack, .srStop, .busError]) ∧
    (d.phase.isSrGc = true →
      eventCodes O d = some [if a then .srGcallDataAck else .srGcallDataNack, .srStop, .busError]) ∧
    (d.phase.isSt = true →
      eventCodes O d = some [if a then .stDataAck else .stLastData, .stDataNack, .busError]) := by
  have hgc : d.phase.isSrGc = true → d.phase.isSrOwn = false := by cases d.phase <;> decide
  have hst : d.phase.isSt = true → d.phase.isSrOwn = false ∧ d.phase.isSrGc = false := by
    cases d.phase <;> decide
  refine ⟨fun h => ?_, fun h => ?_, fun h => ?_⟩
  · simp [eventCodes, hp, ha, h]
  · simp [eventCodes, hp, ha, h, hgc h]
  · simp [eventCodes, hp, ha, h, hst h]

/-- A device off the bus, or an addressed slave, completes no command of its own. -/
theorem completionEnabled_of_slave
    (h : d.pend = .none ∨ d.pend = .byte ∧ d.phase.isAddressed = true) : completionEnabled d = false := by
  rcases h with hp | ⟨hp, ha⟩
  · simp [completionEnabled, hp]
  · have hno : d.phase.isAddr = false ∧ d.phase.isMt = false ∧ d.phase.isMr = false ∧
        d.phase ≠ .busError := by
      revert ha; cases d.phase <;> decide
    simp [completionEnabled, hp, hno]

end

/-- Settles O38: a slave event is enabled in each case, and draws from the relation `E`. -/
theorem slaveEventsFollowTheRelation : Obligations.SlaveEventsFollowTheRelation := by
  intro s k d code b hd hb hh hen hint hsto data follows
  have hdata : (if eventDrawsData code then b else d.data) = data := by
    have hmem : eventDrawsData code = true ↔ code.code ∈ ([0x80, 0x88, 0x90, 0x98] : List Byte) :=
      List.contains_iff_mem.trans Status.code_mem_map.symm
    exact if_congr hmem rfl rfl
  have hcase : ∀ {cs : List Status} {codes : List Byte},
      (d.pend = .none ∧ d.phase = .noInfo ∨ d.pend = .byte ∧ d.phase.isAddressed = true) →
      eventCodes s.cfg.chip.oadr d = some cs → (cs.map Status.code).Perm codes → follows codes := by
    intro cs codes hp hcs hperm
    have he : slaveEventEnabled d = true := by
      simpa [slaveEventEnabled, hen, hint, hsto] using hp
    have hc : completionEnabled d = false := completionEnabled_of_slave (hp.imp_left And.left)
    exact stepTurn_xcvr_of_drawn hd hb
      (by rw [xcvrStep_of_slaveEvent hh he hc, hcs, slaveEvent_eq, hdata]) hperm
  refine ⟨fun hp hph => ?_, fun hp a ha => ?_⟩
  · obtain ⟨cs, hcs, hperm⟩ := eventCodes_offBus (O := s.cfg.chip.oadr) hp
    exact hcase (.inl ⟨hp, hph⟩) hcs hperm
  · obtain ⟨hown, hgc, hst⟩ := eventCodes_addressed (O := s.cfg.chip.oadr) hp ha
    have haddr := fun h => (Status.isAddressed_of (p := d.phase) h).1
    refine ⟨fun h => hcase (.inr ⟨hp, haddr (.inl h)⟩) (hown h) ?_,
      fun h => hcase (.inr ⟨hp, haddr (.inr (.inl h))⟩) (hgc h) ?_,
      fun h => hcase (.inr ⟨hp, haddr (.inr (.inr h))⟩) (hst h) ?_⟩ <;>
      cases a <;> exact .refl _

end Sys2Proof.Machine

namespace Sys2Proof.Machine

/-! ### What a step of a transceiver and an action of a host leave alone -/

/-- What any step of a transceiver, its own or a joint one, does to its device. -/
inductive Device.XcvrEffect (d : Device) : Device → Prop
  | marks (f : List FaultMark) : d.XcvrEffect { d with faults := f }
  | event (data : Byte) (code : Status) :
      d.XcvrEffect (({ d with data := data } : Device).event code)
  | stop (hp : d.pend.isStop = true) : d.XcvrEffect (executeStop d)

section
variable {d d' : Device}

theorem drawn_effect {go : Device} (codes : Option (List Status)) (code : Status)
    (h : d.XcvrEffect go) : d.XcvrEffect (drawn codes code d go) := by
  unfold drawn
  split
  · split
    · exact h
    · exact .marks d.faults
  · exact .marks _

theorem xcvrStep_effect (O : OadrLayout) (code : Status) (b : Byte) (d : Device) :
    d.XcvrEffect (xcvrStep O code b d) := by
  have hcomplete : d.XcvrEffect (complete code b d) := by rw [complete_eq]; exact .event _ _
  have hevent : d.XcvrEffect (slaveEvent code b d) := by rw [slaveEvent_eq]; exact .event _ _
  unfold xcvrStep
  split_ifs with hh hc hs he
  · exact .marks d.faults
  · exact drawn_effect _ _ hcomplete
  · simp only [stopEnabled, Bool.and_eq_true] at hs
    exact .stop hs.1
  · exact drawn_effect _ _ hevent
  · exact .marks d.faults

theorem JointMaster.effect (h : JointMaster d d') : d.XcvrEffect d' := by
  cases h with
  | start | repStart | address | transmit => exact .event d.data _
  | receive b => exact .event b _
  | stop hp => exact .stop hp

theorem JointSlave.effect {O : OadrLayout} (h : JointSlave O d d') : d.XcvrEffect d' := by
  cases h with
  | ended | addressed | sentLast | sent => exact .event d.data _
  | received t => exact .event t _

/-- An action of the host other than an operation reaches the cells, `GIE`, the marks and the model's own
`ret` and `fg` only (R370, R290). -/
theorem hostAct_frame (a : HostAct) (d : Device) :
    hostAct a d = { d with
      cell := (hostAct a d).cell, resp := (hostAct a d).resp, gie := (hostAct a d).gie
      faults := (hostAct a d).faults, refused := (hostAct a d).refused
      lastRefusal := (hostAct a d).lastRefusal, ret := (hostAct a d).ret, fg := (hostAct a d).fg } := by
  unfold hostAct
  cases a with
  | readOutcome =>
    dsimp only
    split
    · rfl
    · split <;> rfl
  | respWriteWide => rfl
  | cellRead | respWrite | setGie | cellWrite | poll | consume | refresh =>
    dsimp only
    split_ifs <;> rfl

end

/-! ### What an effect ends with -/

/-- The device an effect ends with, be it done or a fault, meets `P`. -/
def Eff.EndsWith (P : Device → Prop) : Eff → Prop
  | .done d => P d
  | .fault _ d => P d
  | .refuse _ => True

section
variable {P : Device → Prop} {e : Eff}

theorem Eff.EndsWith.ite {c : Prop} [Decidable c] {e' : Eff} (h : e.EndsWith P) (h' : e'.EndsWith P) :
    (if c then e else e').EndsWith P := by
  split
  · exact h
  · exact h'

theorem Eff.EndsWith.map {f : Device → Device} (he : e.EndsWith P) (hf : ∀ x, P x → P (f x)) :
    (e.map f).EndsWith P := by
  cases e with
  | done x => exact hf x he
  | fault r x => exact he
  | refuse r => trivial

/-- The device after the effect, if no mark matters to `P`. -/
theorem Eff.EndsWith.settle {a : Agent} {d : Device} (he : e.EndsWith P)
    (hraise : ∀ x r, P x → P (x.raise r a)) (hrefuse : ∀ r, P (d.refuse r)) : P (e.settle a d) := by
  cases e with
  | done x => exact he
  | fault r x => exact hraise x r he
  | refuse r => exact hrefuse r

theorem Eff.map_id (e : Eff) : e.map id = e := by cases e <;> rfl

section
variable {cfg : Config} {v : Byte} {d : Device}

/-- A control write, and after it an update: a faulting write leaves the device as it was (R345). -/
theorem ctrlWrite_map_endsWith {f : Device → Device} (h : P d)
    (hf : ∀ x, ctrlWrite cfg v d = .done x → P (f x)) : ((ctrlWrite cfg v d).map f).EndsWith P := by
  cases hw : ctrlWrite cfg v d with
  | done x => exact hf x hw
  | fault r x =>
    obtain ⟨rfl, -⟩ := ctrlWrite_fault cfg d hw
    exact h
  | refuse r => trivial

theorem ctrlWrite_endsWith (h : P d) (hf : ∀ x, ctrlWrite cfg v d = .done x → P x) :
    (ctrlWrite cfg v d).EndsWith P := by
  rw [← Eff.map_id (ctrlWrite cfg v d)]
  exact ctrlWrite_map_endsWith h hf

end

end

/-! ### The enables and the acknowledge latch after a control write (R141, R144) -/

/-- `d'` has the enables of the control word `v`; its acknowledge latch is the one of `d` or, after a
command, the word's `EA`. -/
structure Device.TakesWord (L : CtrlLayout) (v : Byte) (d d' : Device) : Prop where
  ea : d'.ctrl.ea = ctrlE L v
  ie : d'.ctrl.ie = ctrlQ L v
  en : d'.ctrl.en = ctrlN L v
  ack : d'.ack = d.ack ∨ ctrlI L v = true ∧ d'.ack = some (ctrlE L v)

section
variable {L : CtrlLayout} {v : Byte} {d d' w : Device}

theorem takesWord_configCmd (en : Bool) (h : d.TakesWord L v w) : d.TakesWord L v (configCmd en w) := by
  obtain ⟨hea, hie, hen, hack⟩ := h
  unfold configCmd
  split_ifs <;> exact ⟨hea, hie, hen, hack⟩

theorem takesWord_startCmd {cfg : Config} {d0 : Device} (h : d.TakesWord L v w)
    (hw : startCmd cfg d0 w = .done d') : d.TakesWord L v d' := by
  obtain ⟨hea, hie, hen, hack⟩ := h
  unfold startCmd at hw
  split at hw
  · split at hw
    · cases hw; exact ⟨hea, hie, hen, hack⟩
    · cases hw
  · cases hw; exact ⟨hea, hie, hen, hack⟩

theorem takesWord_stopCmd (h : d.TakesWord L v w) : d.TakesWord L v (stopCmd w) := by
  obtain ⟨hea, hie, hen, hack⟩ := h
  unfold stopCmd
  split_ifs <;> exact ⟨hea, hie, hen, hack⟩

theorem takesWord_continueCmd {d0 : Device} (hi : ctrlI L v = true) (h : d.TakesWord L v w)
    (hw : continueCmd d0 w = .done d') : d.TakesWord L v d' := by
  obtain ⟨hea, hie, hen, hack⟩ := h
  have hlatch : some w.ctrl.ea = d.ack ∨ ctrlI L v = true ∧ some w.ctrl.ea = some (ctrlE L v) :=
    .inr ⟨hi, congrArg some hea⟩
  unfold continueCmd at hw
  split_ifs at hw <;> cases hw
  exacts [⟨hea, hie, hen, hack⟩, ⟨hea, hie, hen, hlatch⟩, ⟨hea, hie, hen, hack⟩,
    ⟨hea, hie, hen, hlatch⟩, ⟨hea, hie, hen, hlatch⟩, ⟨hea, hie, hen, hack⟩, ⟨hea, hie, hen, hack⟩]

/-- A control write that is done (R141). -/
theorem ctrlWrite_takesWord {cfg : Config} (hw : ctrlWrite cfg v d = .done d') :
    d.TakesWord cfg.chip.ctrl v d' := by
  have hfields : d.TakesWord cfg.chip.ctrl v (d.writeFields cfg.chip.ctrl v) :=
    ⟨rfl, rfl, rfl, .inl rfl⟩
  have hcommand : d.TakesWord cfg.chip.ctrl v ((d.writeFields cfg.chip.ctrl v).setInt false) :=
    ⟨rfl, rfl, rfl, .inl rfl⟩
  unfold ctrlWrite at hw
  dsimp only at hw
  split_ifs at hw with hres hbusy hconfig hstart hstop
  · cases hw; exact takesWord_configCmd _ hfields
  · exact takesWord_startCmd hcommand hw
  · cases hw; exact takesWord_stopCmd hcommand
  · exact takesWord_continueCmd (by simpa using hconfig) hcommand hw

end

/-! ### An armed slave (R166, R289) -/

section
variable {O : OadrLayout} {d d' : Device}

theorem slaveInv_of_master (hr : d.role = .master) (hi : d.RoleInv) : d.SlaveInv O := by
  obtain ⟨-, -, hmaster⟩ := hi
  refine ⟨fun h => ?_, fun h => ?_, fun h => ?_⟩
  · rw [hr] at h; cases h
  · have := (hmaster hr).1
    rw [h] at this; cases this
  · rw [hr] at h; cases h

/-- `SlaveInv` reads neither the event flag, the phase and the pending command nor `DATA`. -/
theorem Device.XcvrEffect.slaveInv (h : d.SlaveInv O) (he : d.XcvrEffect d') : d'.SlaveInv O := by
  cases he <;> exact h

theorem slaveInv_hostAct (a : HostAct) (h : d.SlaveInv O) : (hostAct a d).SlaveInv O := by
  rw [hostAct_frame]
  exact h

theorem slaveInv_readData (h : d.SlaveInv O) : (readData d).2.SlaveInv O := by
  unfold readData
  split <;> exact h

theorem slaveInv_writeData (v : Byte) (h : d.SlaveInv O) : (writeData v d).SlaveInv O := by
  unfold writeData
  split <;> exact h

/-- The effect leaves the invariant, whoever settles it. -/
theorem Eff.EndsWith.slaveInv {e : Eff} (he : e.EndsWith (·.SlaveInv O)) (h : d.SlaveInv O) (a : Agent) :
    (e.settle a d).SlaveInv O :=
  he.settle (fun _ _ hx => hx) fun _ => h

end

section
variable {cfg : Config} {d : Device} (hC : cfg.chip = standardChip)
include hC

/-- A word that sets `EA`, `EN` and `IE` keeps a slave armed: all its latch can take is an ACK (R166). -/
theorem ctrlWrite_keepsArmed (h : d.SlaveInv standardOadr) (hr : d.role = .slave) {i p : Bool} :
    (ctrlWrite cfg (ctrlWord standardCtrl i true false p false true true) d).EndsWith
      (·.SlaveInv standardOadr) := by
  refine ctrlWrite_endsWith h fun x hw => ?_
  have hx := ctrlWrite_frame cfg d hw
  obtain ⟨hea, hie, hen, hack⟩ := ctrlWrite_takesWord hw
  obtain ⟨-, -, harmed⟩ := h
  obtain ⟨-, -, -, hgce, hno⟩ := harmed hr
  have hrole : x.role = d.role := by rw [hx]
  have hoadr : x.oadr = d.oadr := by rw [hx]
  simp only [hC, standardChip_ctrl, standardCtrl_wellFormed, ctrlE_ctrlWord, ctrlQ_ctrlWord,
    ctrlN_ctrlWord] at hea hie hen hack
  refine ⟨fun hu => ?_, fun _ => ?_, fun _ => ⟨hea, hie, hen, ?_, ?_⟩⟩
  · rw [hrole, hr] at hu; cases hu
  · rw [Device.gce, hoadr]; exact hgce
  · rw [Device.gce, hoadr]; exact hgce
  · rcases hack with hack | ⟨-, hack⟩ <;> rw [hack]
    · exact hno
    · simp

/-- The words a slave's handler writes (R207, R211, R212). -/
theorem armForReplyLine_keepsArmed (h : d.SlaveInv standardOadr) (hr : d.role = .slave) :
    (armForReplyLine cfg d).EndsWith (·.SlaveInv standardOadr) := by
  rw [armForReplyLine, hC, standardChip_words, armForReply_word]
  exact ctrlWrite_keepsArmed hC h hr

theorem clearEventLine_keepsArmed (h : d.SlaveInv standardOadr) (hr : d.role = .slave) :
    (clearEventLine cfg d).EndsWith (·.SlaveInv standardOadr) := by
  obtain ⟨hea, hie, hen, -⟩ := h.2.2 hr
  rw [clearEventLine, hC, standardChip_words, standardChip_ctrl, wordClearEvent_eq, hea, hie, hen]
  exact ctrlWrite_keepsArmed hC h hr

theorem recoverLine_keepsArmed (h : d.SlaveInv standardOadr) (hr : d.role = .slave) :
    (recoverLine cfg d).EndsWith (·.SlaveInv standardOadr) := by
  obtain ⟨hea, hie, hen, -⟩ := h.2.2 hr
  rw [recoverLine, hC, standardChip_words, standardChip_ctrl, wordRecover_eq, hea, hie, hen]
  exact ctrlWrite_keepsArmed hC h hr

/-- The operations of a slave's handler (R215.3). -/
theorem handlerLine_keepsArmed {i : Instr} {op : OpKind} {line : Device → Eff}
    (hl : IsLine cfg i op line) (hop : op ∈ handlerOps) (h : d.SlaveInv standardOadr)
    (hr : d.role = .slave) : (line d).EndsWith (·.SlaveInv standardOadr) := by
  cases hl with
  | stop => simp [handlerOps] at hop
  | armForReply => exact armForReplyLine_keepsArmed hC h hr
  | loadData b => exact slaveInv_writeData b h
  | readData => exact slaveInv_readData h
  | clearEvent => exact clearEventLine_keepsArmed hC h hr
  | recover => exact recoverLine_keepsArmed hC h hr
  | readStatus => exact h

/-- One invocation of the handler (R281). -/
theorem handlerInvocation_keepsArmed {action : Device → Eff} (ha : IsAction cfg action)
    (h : d.SlaveInv standardOadr) (hr : d.role = .slave) :
    (handlerInvocation action d).EndsWith (·.SlaveInv standardOadr) := by
  have htake : (takeInterrupt d).SlaveInv standardOadr := h
  have hact : (action (takeInterrupt d)).EndsWith (·.SlaveInv standardOadr) := by
    cases ha with
    | addrW => exact clearEventLine_keepsArmed hC htake hr
    | dataRx =>
      refine clearEventLine_keepsArmed hC (d := writeCell _ _) (slaveInv_readData htake) ?_
      exact (readData_sameEngine (takeInterrupt d)).role.trans hr
    | dataReq =>
      refine armForReplyLine_keepsArmed hC (slaveInv_writeData _ htake) ?_
      exact (writeData_sameEngine (takeInterrupt d) _).role.trans hr
    | other => exact recoverLine_keepsArmed hC htake hr
  exact hact.map fun _ hx => hx

/-- The last line of `configure_slave` arms the device: the line before it has cleared `GCE` (R201). -/
theorem configureSlave3_arms (h : d.SlaveInv standardOadr) (hst : d.stage = .configureSlave3)
    (hr : d.role ≠ .master) :
    ((ctrlWrite cfg cfg.chip.words.configureSlave d).map
      fun x => ({ x with role := .slave } : Device).goto .idle).EndsWith (·.SlaveInv standardOadr) := by
  refine ctrlWrite_map_endsWith h fun x hw => ?_
  have hx := ctrlWrite_frame cfg d hw
  have hoadr : x.oadr = d.oadr := by rw [hx]
  rw [hC, standardChip_words, configureSlave_word] at hw
  obtain ⟨hea, hie, hen, hack⟩ := ctrlWrite_takesWord hw
  simp only [hC, standardChip_ctrl, standardCtrl_wellFormed, ctrlI_ctrlWord, ctrlE_ctrlWord,
    ctrlQ_ctrlWord, ctrlN_ctrlWord, Bool.false_eq_true, false_and, or_false] at hea hie hen hack
  obtain ⟨hunconf, hcs, harmed⟩ := h
  have hno : d.ack ≠ some false := by
    cases hrole : d.role with
    | unconfigured => simp [hunconf hrole]
    | master => exact absurd hrole hr
    | slave => exact (harmed hrole).2.2.2.2
  refine ⟨nofun, nofun, fun _ => ⟨hea, hie, hen, ?_, ?_⟩⟩
  · show x.oadr.getLsbD _ = false
    rw [hoadr]
    exact hcs hst
  · show x.ack ≠ some false
    rw [hack]
    exact hno

/-- The engine of a device that is no master runs a configure (R215): its lines arm a slave, or keep what
is armed. -/
theorem runStage_keepsArmed (h : d.SlaveInv standardOadr) (hi : d.RoleInv) (hr : d.role ≠ .master) :
    (runStage cfg d).EndsWith (·.SlaveInv standardOadr) := by
  obtain ⟨hu, hcs, ha⟩ := h
  have hstage : d.stage = .idle ∨ d.stage.isConfigureSlave = true ∨
      d.role = .unconfigured ∧ d.stage.isConfigureMaster = true := by
    obtain ⟨hunconf, hslave, -⟩ := hi
    cases hrole : d.role with
    | unconfigured => have := hunconf hrole; tauto
    | master => exact absurd hrole hr
    | slave => have := hslave hrole; tauto
  unfold runStage
  cases hst : d.stage with
  | idle => exact ⟨hu, hcs, ha⟩
  | configureMaster2 | configureMaster3 => exact ⟨hu, nofun, ha⟩
  | configureMaster4 =>
    exact ctrlWrite_map_endsWith (P := (·.SlaveInv standardOadr)) ⟨hu, hcs, ha⟩
      fun x _ => ⟨nofun, nofun, nofun⟩
  | configureSlave2 a =>
    have hgce : (writeOadr (oadr8 standardOadr a) d).gce standardOadr = false :=
      (ownAddr_oadr8 standardChip_wellFormed.2.2.1 _ a rfl).2
    refine ⟨hu, fun _ => ?_, fun hs => ?_⟩
    · rw [hC]; exact hgce
    · obtain ⟨hea, hie, hen, -, hack⟩ := ha hs
      refine ⟨hea, hie, hen, ?_, hack⟩
      rw [hC]; exact hgce
  | configureSlave3 => exact configureSlave3_arms hC ⟨hu, hcs, ha⟩ hst hr
  | _ => simp [hst, Stage.isConfigureSlave, Stage.isConfigureMaster] at hstage

end

/-- Line 1 of a configure changes nothing yet (R200, R201). -/
theorem configureLine1_keepsArmed {O : OadrLayout} (cfg : Config) {d : Device} {i : Instr} {op : OpKind}
    {st : Stage} (hst : IsLine1 i op st) (hop : op = .configureMaster ∨ op = .configureSlave)
    (h : d.SlaveInv O) : (runStage cfg (d.goto st)).EndsWith (·.SlaveInv O) := by
  obtain ⟨hu, -, ha⟩ := h
  cases hst with
  | configureMaster p k =>
    exact .ite trivial (.ite trivial (.ite trivial (.ite trivial ⟨hu, nofun, ha⟩)))
  | configureSlave a =>
    exact .ite trivial (.ite trivial (.ite trivial ⟨hu, nofun, ha⟩))
  | _ => simp at hop

/-- A handler issues on a slave, and no operation but its own (R215.3). -/
theorem contextCheck_handler_none {busRole : Option Role} {op : OpKind} {d : Device}
    (hc : contextCheck busRole .handler op d = none) : d.role = .slave ∧ op ∈ handlerOps := by
  unfold contextCheck at hc
  split at hc <;> simp_all

/-- An operation on a device that is no master. -/
theorem OpMove.slaveInv {cfg : Config} (hC : cfg.chip = standardChip) {k : Nat} {who : Issuer} {i : Instr}
    {d d' : Device} (hop : OpMove cfg k who i d d') (h : d.SlaveInv standardOadr)
    (hr : d.role ≠ .master) : d'.SlaveInv standardOadr := by
  cases hop with
  | refused r => exact h
  | line1 op st hst hw hc =>
    have hconf : op = .configureMaster ∨ op = .configureSlave := by
      by_contra hno
      exact hr (contextCheck_host_master hc (fun e => hno (.inl e)) fun e => hno (.inr e))
    exact (configureLine1_keepsArmed cfg hst hconf h).slaveInv h .engine
  | handlerLine op line hl hw hc =>
    obtain ⟨hrole, hmem⟩ := contextCheck_handler_none hc
    exact (handlerLine_keepsArmed hC hl hmem h hrole).slaveInv h .handler

/-- Every move but a direct access. A master stays one, or is reset. -/
theorem Move.slaveInv {s : State} {k : Nat} {d d' : Device} {t : Turn} (hC : s.standard) (hs : s.Inv)
    (hd : s.devs[k]? = some d) (ht : t.isDirect = false) (hm : Move s k d t d')
    (h : d.SlaveInv standardOadr) : d'.SlaveInv standardOadr := by
  obtain ⟨-, -, hi, -⟩ := hs.device hd
  by_cases hmaster : d.role = .master ∧ t.isReset = false
  · obtain ⟨hr, hreset⟩ := hmaster
    have hrole := (hm.persists hreset hi).role (by simp [hr])
    obtain ⟨-, -, hi', -⟩ := hm.inv hs hd
    exact slaveInv_of_master (hrole.trans hr) hi'
  · have hr : t.isReset = false → d.role ≠ .master := fun hreset hx => hmaster ⟨hx, hreset⟩
    cases hm with
    | stay | illegal => exact h
    | issue who w i _ _ _ hop => exact hop.slaveInv hC h (hr rfl)
    | engine => exact (runStage_keepsArmed hC h hi (hr rfl)).slaveInv h .engine
    | handler action ha he =>
      obtain ⟨hrole, -⟩ := d.handlerEnabled_iff.mp he
      exact (handlerInvocation_keepsArmed hC ha h hrole).slaveInv h .handler
    | hostAct a => exact slaveInv_hostAct a h
    | directRefused | directRead | directWrite | directCtrl => cases ht
    | xcvr code b => exact (xcvrStep_effect _ code b d).slaveInv h
    | jointMaster _ _ _ _ _ hj => exact hj.effect.slaveInv h
    | jointSlave _ _ _ _ hj => exact hj.effect.slaveInv h
    | jointFault => exact h
    | reset | resetAll => exact ⟨fun _ => rfl, nofun, nofun⟩

/-- A property that every move of a turn gives the moved device holds of every device of the next
state. -/
theorem forall_mem_of_moves {s s' : State} {t : Turn} {P : Device → Prop}
    (hstep : stepTurn t s = .next s')
    (hP : ∀ k d d', s.devs[k]? = some d → Move s k d t d' → P d') : ∀ d ∈ s'.devs, P d := by
  intro d' hd'
  obtain ⟨-, hlen, -, hmoves⟩ := turn_moves hstep
  obtain ⟨j, hj, rfl⟩ := List.mem_iff_getElem.mp hd'
  have hd : s.devs[j]? = some s.devs[j] := List.getElem?_eq_getElem (hlen ▸ hj)
  obtain ⟨e, he, hm⟩ := hmoves j _ hd
  obtain rfl : s'.devs[j] = e := by simpa [hj] using he
  exact hP j _ _ hd hm

/-- Settles O55: every move but a direct access keeps `SlaveInv`. -/
theorem slaveStaysArmed : Obligations.SlaveStaysArmed := by
  intro s s' t hC ht hs hinv hstep
  exact forall_mem_of_moves hstep fun k d d' hd hm =>
    hm.slaveInv hC hs hd ht (hinv d (List.mem_of_getElem? hd))

end Sys2Proof.Machine

namespace Sys2Proof.Machine

/-! ### What a command leaves pending (R143, R144) -/

section
variable {cfg : Config} {d w d' : Device}

theorem startCmd_pend (h : startCmd cfg d w = .done d') : d'.pend = .start ∨ d'.pend = .stopThenStart := by
  unfold startCmd at h
  split at h
  · split at h <;> cases h
    exact .inr rfl
  · cases h
    exact .inl rfl

theorem continueCmd_pend (h : continueCmd d w = .done d') :
    d'.pend = .byte ∨ d'.pend = .none ∧ d'.phase = .noInfo := by
  have hbyte : ∀ {p : Prop}, Pend.byte = .byte ∨ p := .inl rfl
  have hoff : Pend.none = .byte ∨ Pend.none = .none ∧ Status.noInfo = .noInfo := .inr ⟨rfl, rfl⟩
  unfold continueCmd at h
  split_ifs at h <;> cases h
  exacts [hbyte, hbyte, hoff, hbyte, hbyte, hoff, hbyte]

/-- A command that is done met no busy device (R141). -/
theorem not_busy_of_ctrlWrite_done {v : Byte} (h : ctrlWrite cfg v d = .done d')
    (hi : ctrlI cfg.chip.ctrl v = true) : d.busy = false := by
  cases hb : d.busy with
  | false => rfl
  | true =>
    cases hr : reservedWord cfg.chip.ctrl v d.ctrl.sto with
    | true => simp [ctrlWrite, hr] at h
    | false => simp [ctrlWrite_busy cfg d v hr hi hb] at h

variable (hL : cfg.chip.ctrl.WellFormed) {e n q : Bool}
include hL

/-- A `START` that is done: the start is pending, at once or after the stop. -/
theorem ctrlWrite_start_done
    (h : ctrlWrite cfg (ctrlWord cfg.chip.ctrl true e true false n true q) d = .done d') :
    d'.ctrl.en = true ∧ (d'.pend = .start ∨ d'.pend = .stopThenStart) := by
  have hb := not_busy_of_ctrlWrite_done h (by simp [hL])
  exact ⟨(ctrlWrite_takesWord h).en.trans (by simp [hL]),
    startCmd_pend (ctrlWrite_start cfg d hL e n q hb ▸ h)⟩

/-- A `CONTINUE` that is done: the byte step is pending, or the device has left the bus. -/
theorem ctrlWrite_continue_done
    (h : ctrlWrite cfg (ctrlWord cfg.chip.ctrl true e false false n true q) d = .done d') :
    d'.ctrl.en = true ∧ (d'.pend = .byte ∨ d'.pend = .none ∧ d'.phase = .noInfo) := by
  have hb := not_busy_of_ctrlWrite_done h (by simp [hL])
  exact ⟨(ctrlWrite_takesWord h).en.trans (by simp [hL]),
    continueCmd_pend (ctrlWrite_continue cfg d hL e n q hb ▸ h)⟩

end

/-! ### A primitive's hold (R202, R205, R206) -/

/-- The stages `PrimitiveWaits` speaks of. -/
def Stage.isPrimitiveHold : Stage → Bool
  | .start2 | .writeByte3 | .readByte2 => true
  | _ => false

section
variable {d d' : Device}

theorem primitiveWaits_of_stage (h : d.stage.isPrimitiveHold = false) : d.PrimitiveWaits := by
  refine ⟨fun hs => ?_, fun hs => ?_⟩
  · rw [hs] at h; cases h
  · rcases hs with hs | hs <;> rw [hs] at h <;> cases h

theorem primitiveWaits_of_int (h : d.ctrl.int = true) : d.PrimitiveWaits :=
  ⟨fun _ => .inl h, fun _ => .inl h⟩

/-- A slave's engine holds in no primitive (R215.3). -/
theorem primitiveWaits_of_slave (hr : d.role = .slave) (hi : d.RoleInv) : d.PrimitiveWaits := by
  obtain ⟨-, hslave, -⟩ := hi
  refine primitiveWaits_of_stage ?_
  rcases hslave hr with hs | hs
  · rw [hs]; rfl
  · revert hs; cases d.stage <;> simp [Stage.isConfigureSlave, Stage.isPrimitiveHold]

/-- A step of the transceiver brings the event, or executes the stop before the start. -/
theorem Device.XcvrEffect.primitiveWaits (hx : d.XcvrInv) (h : d.PrimitiveWaits)
    (he : d.XcvrEffect d') : d'.PrimitiveWaits := by
  cases he with
  | marks => exact h
  | event => exact primitiveWaits_of_int rfl
  | stop hp =>
    obtain ⟨-, hevent, -⟩ := hx
    have hint : d.ctrl.int = false := by
      by_contra hi
      rw [(hevent (by simpa using hi)).1] at hp
      cases hp
    obtain ⟨hstart, hbyte⟩ := h
    refine ⟨fun hs => .inr ?_, fun hs => ?_⟩
    · obtain ⟨hen, hq | hq⟩ := (hstart hs).resolve_left (by simp [hint])
      · rw [hq] at hp; cases hp
      · exact ⟨hen, .inl (by rw [executeStop, hq]; rfl)⟩
    · obtain ⟨-, hq | ⟨hq, -⟩⟩ := (hbyte hs).resolve_left (by simp [hint]) <;>
        rw [hq] at hp <;> cases hp

variable {cfg : Config}

theorem ctrlThen_primitiveWaits {v : Byte} {next : Stage} (h : d.PrimitiveWaits)
    (hn : next.isPrimitiveHold = false) : (ctrlThen cfg v next d).EndsWith (·.PrimitiveWaits) :=
  ctrlWrite_map_endsWith h fun _ _ => primitiveWaits_of_stage hn

theorem lastLine_primitiveWaits {line : Device → Eff} (h : d.PrimitiveWaits)
    (hline : ∀ r x, line d = .fault r x → x = d) : (lastLine line d).EndsWith (·.PrimitiveWaits) := by
  unfold lastLine
  cases hl : line d with
  | done x => exact primitiveWaits_of_stage (d := x.goto .idle) rfl
  | fault r x => exact hline r x hl ▸ h
  | refuse r => trivial

theorem hold_primitiveWaits {next : Stage} (h : d.PrimitiveWaits) (hn : next.isPrimitiveHold = false) :
    (hold next d).EndsWith (·.PrimitiveWaits) := by
  unfold hold
  split
  · exact primitiveWaits_of_stage (d := d.goto next) hn
  · exact h

theorem stopWith_primitiveWaits (o : EngOutcome) (h : d.PrimitiveWaits) :
    (stopWith cfg o d).EndsWith (·.PrimitiveWaits) :=
  ctrlWrite_map_endsWith h fun _ _ => primitiveWaits_of_stage rfl

theorem withLatch_primitiveWaits {α : Type} {o : Option α} {f : α → Eff} (h : d.PrimitiveWaits)
    (hf : ∀ a, (f a).EndsWith (·.PrimitiveWaits)) : (withLatch o f d).EndsWith (·.PrimitiveWaits) := by
  cases o with
  | some a => exact hf a
  | none => exact h

/-- A stage of the engine (R40): the lines before the three holds are done only with their command
pending, or off the bus. -/
theorem runStage_primitiveWaits (hC : cfg.chip = standardChip) (h : d.PrimitiveWaits) :
    (runStage cfg d).EndsWith (·.PrimitiveWaits) := by
  have hL : cfg.chip.ctrl.WellFormed := by rw [hC]; exact standardCtrl_wellFormed
  have hbyte : ∀ {a : Bool} {next : Stage}, next ≠ .start2 →
      (ctrlThen cfg (ctrlWord cfg.chip.ctrl true a false false false true false) next d).EndsWith
        (·.PrimitiveWaits) := fun hs => ctrlWrite_map_endsWith h fun x hw => by
      have hdone := ctrlWrite_continue_done hL hw
      exact ⟨fun hx => absurd hx hs, fun _ => .inr hdone⟩
  unfold runStage
  cases hst : d.stage with
  | idle => exact h
  | start1 =>
    have hword : cfg.chip.words.start = ctrlWord cfg.chip.ctrl true false true false false true false := by
      rw [hC]; exact start_word
    dsimp only
    rw [hword]
    refine ctrlWrite_map_endsWith h fun x hw => ?_
    have hdone := ctrlWrite_start_done hL hw
    exact ⟨fun _ => .inr hdone, nofun⟩
  | writeByte2 =>
    have hword : cfg.chip.words.writeByte =
        ctrlWord cfg.chip.ctrl true false false false false true false := by rw [hC]; exact writeByte_word
    dsimp only
    rw [hword]
    exact hbyte nofun
  | readByte1 a =>
    have hword : wordReadByte cfg.chip.words a =
        ctrlWord cfg.chip.ctrl true a false false false true false := by rw [hC]; exact wordReadByte_eq a
    dsimp only
    rw [hword]
    exact hbyte nofun
  | setAck2 | wcStartGo | wcAddrGo | wcDataGo | rrStartGo | rrAddrGo | rrReadGo =>
    exact ctrlThen_primitiveWaits h rfl
  | start2 | writeByte3 | readByte2 | wcStartWait | wcAddrWait | wcDataWait | rrStartWait | rrAddrWait
  | rrReadWait => exact hold_primitiveWaits h rfl
  | configureMaster4 | configureSlave3 =>
    exact ctrlWrite_map_endsWith h fun _ _ => primitiveWaits_of_stage rfl
  | configureMaster1 =>
    exact .ite trivial (.ite trivial (.ite trivial (.ite trivial (primitiveWaits_of_stage rfl))))
  | configureSlave1 => exact .ite trivial (.ite trivial (.ite trivial (primitiveWaits_of_stage rfl)))
  | setAck1 => exact .ite trivial (primitiveWaits_of_stage rfl)
  | stop1 | armForReply1 | clearEvent1 | recover1 =>
    exact lastLine_primitiveWaits h fun r x hw => (ctrlWrite_fault cfg d hw).1
  | loadData1 | readData1 | readStatus1 | writeByte1 | readByte3 | readByte4 | writeByte4
  | configureMaster2 | configureMaster3 | configureSlave2 | wcIssue | rrIssue =>
    exact primitiveWaits_of_stage rfl
  | wcAddrTest | wcDataTest | rrAddrTest | rrReadTest =>
    refine primitiveWaits_of_stage (d := Device.goto _ _) ?_
    split <;> rfl
  | wcAddrLoad | wcDataLoad | rrAddrLoad =>
    exact withLatch_primitiveWaits h fun _ => primitiveWaits_of_stage rfl
  | wcFinish => exact stopWith_primitiveWaits _ h
  | wcAbort | rrFinish | rrAbort => exact withLatch_primitiveWaits h fun _ => stopWith_primitiveWaits _ h

/-- The effect leaves the waits as they are, whoever settles it. -/
theorem Eff.EndsWith.primitiveWaits {e : Eff} (he : e.EndsWith (·.PrimitiveWaits))
    (h : d.PrimitiveWaits) (a : Agent) : (e.settle a d).PrimitiveWaits :=
  he.settle (fun _ _ hx => hx) fun _ => h

/-- Line 1 of an operation is no hold. -/
theorem IsLine1.not_hold {i : Instr} {op : OpKind} {st : Stage} (h : IsLine1 i op st) :
    st.isPrimitiveHold = false := by
  cases h <;> rfl

end

/-- Every move but a direct access. -/
theorem Move.primitiveWaits {s : State} {k : Nat} {d d' : Device} {t : Turn} (hC : s.standard)
    (hs : s.Inv) (hd : s.devs[k]? = some d) (ht : t.isDirect = false) (hm : Move s k d t d')
    (h : d.PrimitiveWaits) : d'.PrimitiveWaits := by
  obtain ⟨hx, -, hi, -⟩ := hs.device hd
  obtain ⟨-, -, hi', -⟩ := hm.inv hs hd
  have hslave : t.isReset = false → d.role = .slave → d'.PrimitiveWaits := fun hreset hr =>
    primitiveWaits_of_slave (((hm.persists hreset hi).role (by simp [hr])).trans hr) hi'
  cases hm with
  | stay | illegal => exact h
  | issue who w i _ _ _ hop =>
    cases hop with
    | refused r => exact h
    | line1 op st hst =>
      have hline : (d.goto st).PrimitiveWaits := primitiveWaits_of_stage hst.not_hold
      exact (runStage_primitiveWaits hC hline).settle (fun _ _ hx => hx) fun _ => h
    | handlerLine op line hl hw hc => exact hslave rfl (contextCheck_handler_none hc).1
  | engine => exact (runStage_primitiveWaits hC h).primitiveWaits h .engine
  | handler action ha he => exact hslave rfl (d.handlerEnabled_iff.mp he).1
  | hostAct a => rw [hostAct_frame]; exact h
  | directRefused | directRead | directWrite | directCtrl => cases ht
  | xcvr code b => exact (xcvrStep_effect _ code b d).primitiveWaits hx h
  | jointMaster _ _ _ _ _ hj => exact hj.effect.primitiveWaits hx h
  | jointSlave _ _ _ _ hj => exact hj.effect.primitiveWaits hx h
  | jointFault => exact h
  | reset | resetAll => exact primitiveWaits_of_stage rfl

/-! ### A pending start or byte step can end (R178, R320) -/

/-- A byte step is a master's, or the one after a bus error, or an addressed slave's (R144). -/
theorem Status.byteStep_cases {p : Status} (h : p.hasByteStep = true) :
    (p.isAddr = true ∨ p.isMt = true ∨ p.isMr = true ∨ p = .busError) ∨ p.isAddressed = true := by
  revert h; cases p <;> decide

/-- The owner's byte step is one of the three that a joint step completes (R312). -/
theorem Status.byteStep_of_master {p : Status} (hstep : p.hasByteStep = true)
    (hp : p = .noInfo ∨ p.isOwner = true) : p.isAddr = true ∨ p.isMt = true ∨ p.isMr = true := by
  rcases hp with rfl | hp
  · cases hstep
  · revert hstep hp; cases p <;> decide

section
variable {O : OadrLayout} {d : Device} (hx : d.XcvrInv)
include hx

/-- A completion may always report a bus error (R160). -/
theorem busError_mem_completionCodes
    (hp : d.pend = .start ∨ d.pend = .byte ∧ (d.phase.isAddr = true ∨ d.phase.isMt = true ∨
      d.phase.isMr = true ∨ d.phase = .busError)) :
    ∃ cs, completionCodes O d = some cs ∧ Status.busError ∈ cs := by
  obtain ⟨-, -, -, -, -, htx, hack⟩ := hx
  rcases hp with hp | ⟨hp, ha | hm | hr | hz⟩
  · exact ⟨_, completionCodes_start hp, by simp⟩
  · obtain ⟨t, ht⟩ := Option.isSome_iff_exists.mp (htx hp (by simp [ha]))
    exact ⟨_, completionCodes_addr hp ha ht, by simp⟩
  · exact ⟨_, completionCodes_mt hp hm, by simp⟩
  · obtain ⟨a, ha⟩ := Option.isSome_iff_exists.mp (hack hp (by simp [hr]))
    exact ⟨_, completionCodes_mr hp hr ha, by simp⟩
  · exact ⟨_, completionCodes_busError hp hz, by decide⟩

/-- So may the next event of an addressed slave (R165). -/
theorem busError_mem_eventCodes (hp : d.pend = .byte) (ha : d.phase.isAddressed = true) :
    ∃ cs, eventCodes O d = some cs ∧ Status.busError ∈ cs := by
  obtain ⟨-, -, -, -, -, -, hack⟩ := hx
  obtain ⟨a, hlatch⟩ := Option.isSome_iff_exists.mp (hack hp (by simp [ha]))
  obtain ⟨hown, hgc, hst⟩ := eventCodes_addressed (O := O) hp hlatch
  simp only [Status.isAddressed, Bool.or_eq_true] at ha
  rcases ha with (h | h) | h
  · exact ⟨_, hown h, by simp⟩
  · exact ⟨_, hgc h, by simp⟩
  · exact ⟨_, hst h, by simp⟩

/-- On the open bus a pending start or byte step is followed by an event for some draw. -/
theorem xcvrStep_busError (b : Byte) (hh : d.halted .xcvr = false) (hen : d.ctrl.en = true)
    (hint : d.ctrl.int = false) (hp : d.pend = .start ∨ d.pend = .byte) :
    ∃ data, xcvrStep O .busError b d = ({ d with data := data } : Device).event .busError := by
  have ⟨_, _, hsto, _, hstep, _⟩ := hx
  by_cases hc : d.pend = .start ∨ d.pend = .byte ∧ (d.phase.isAddr = true ∨ d.phase.isMt = true ∨
      d.phase.isMr = true ∨ d.phase = .busError)
  · have henabled : completionEnabled d = true := by
      simpa [completionEnabled, hen, hint, or_assoc] using hc
    obtain ⟨cs, hcs, hmem⟩ := busError_mem_completionCodes (O := O) hx hc
    rw [xcvrStep_of_completion hh henabled, hcs, (drawn_some _ _).1 hmem, complete_eq]
    exact ⟨_, rfl⟩
  · have hbyte : d.pend = .byte := hp.resolve_left fun h => hc (.inl h)
    have haddr : d.phase.isAddressed = true :=
      (Status.byteStep_cases (hstep hbyte)).resolve_left fun h => hc (.inr ⟨hbyte, h⟩)
    have henabled : slaveEventEnabled d = true := by
      simp [slaveEventEnabled, hen, hint, hsto, hbyte, haddr, Pend.isStop]
    obtain ⟨cs, hcs, hmem⟩ := busError_mem_eventCodes (O := O) hx hbyte haddr
    rw [xcvrStep_of_slaveEvent hh henabled (completionEnabled_of_slave (.inr ⟨hbyte, haddr⟩)), hcs,
      (drawn_some _ _).1 hmem, slaveEvent_eq]
    exact ⟨_, rfl⟩

end

section
variable {O : OadrLayout} {m m' : BusMove}

/-- The master sees a start (R314). -/
theorem jointStart_master (m : BusMove) : ∃ code, (jointStart m).master = m.master.event code := by
  unfold jointStart
  split <;> exact ⟨_, rfl⟩

/-- The master sees the answer to its address byte (R315). -/
theorem jointAddress_master (t : Byte) (m : BusMove) :
    ∃ code, (jointAddress O t m).master = m.master.event code := by
  unfold jointAddress
  dsimp only
  split
  · split <;> exact ⟨_, rfl⟩
  · exact ⟨_, rfl⟩

/-- The master sees the answer to its data byte (R316). -/
theorem jointTransmit_master {t : Byte} (h : jointTransmit t m = some m') :
    ∃ code, m'.master = m.master.event code := by
  unfold jointTransmit at h
  dsimp only at h
  split at h
  · split at h
    · obtain ⟨a, -, rfl⟩ := Option.map_eq_some_iff.mp h
      exact ⟨_, rfl⟩
    · cases h; exact ⟨_, rfl⟩
  · cases h; exact ⟨_, rfl⟩

/-- The master receives a byte (R317). -/
theorem jointReceive_master {a : Bool} (h : jointReceive a m = some m') :
    ∃ b code, m'.master = ({ m.master with data := b } : Device).event code := by
  unfold jointReceive at h
  dsimp only at h
  split at h
  · split at h
    · split at h <;> cases h
      exact ⟨_, _, rfl⟩
    · cases h; exact ⟨_, _, rfl⟩
  · cases h; exact ⟨_, _, rfl⟩

/-- A joint step of a start or of the owner's byte step brings the master its event (R314–R317). -/
theorem jointMove_event (h : jointMove O m = some m')
    (hp : m.master.pend = .start ∨ m.master.pend = .byte ∧
      (m.master.phase.isAddr = true ∨ m.master.phase.isMt = true ∨ m.master.phase.isMr = true)) :
    ∃ b code, m'.master = ({ m.master with data := b } : Device).event code := by
  have hsame : ∀ {x : Device}, (∃ code, x = m.master.event code) →
      ∃ b code, x = ({ m.master with data := b } : Device).event code :=
    fun ⟨code, hx⟩ => ⟨m.master.data, code, hx⟩
  unfold jointMove at h
  rcases hp with hp | ⟨hp, hphase⟩
  · rw [hp] at h
    cases h
    exact hsame (jointStart_master m)
  · rw [hp] at h
    dsimp only at h
    split_ifs at h with ha ht hr
    · obtain ⟨t, -, rfl⟩ := Option.map_eq_some_iff.mp h
      exact hsame (jointAddress_master t m)
    · obtain ⟨t, -, h⟩ := Option.bind_eq_some_iff.mp h
      exact hsame (jointTransmit_master h)
    · obtain ⟨a, -, h⟩ := Option.bind_eq_some_iff.mp h
      exact jointReceive_master h
    · simp [ha, ht, hr] at hphase

/-- A joint step of a pending stop executes it (R319). -/
theorem jointMove_stop (h : jointMove O m = some m') (hp : m.master.pend.isStop = true) :
    m'.master = executeStop m.master := by
  rcases (Pend.isStop_iff _).mp hp with hp | hp <;> rw [jointMove, hp] at h <;> cases h <;> rfl

/-- An enabled joint step. -/
theorem stepTurn_joint_of_move {s : State} {d : Device} {ds : List Device} {m' : BusMove}
    (hb : s.cfg.busMode = .closedBus) (hdevs : s.devs = d :: ds)
    (he : jointEnabled { master := d, slaves := ds, target := s.target } = true)
    (hm : jointMove s.cfg.chip.oadr { master := d, slaves := ds, target := s.target } = some m') :
    stepTurn .joint s = .next (s.setBus m') := by
  rw [stepTurn_joint hb]
  simp only [jointStep, hdevs, he, hm, if_true]

end

/-! ### Every hold waits for a pending command -/

/-- In a hold that is not over the command that ends it is pending, unless R205's byte step has left the
bus. -/
theorem pending_of_hold {cfg : Config} {d : Device} (ht : d.TransInv cfg) (hw : d.PrimitiveWaits)
    (hint : d.ctrl.int = false)
    (hst : d.stage ∈ [Stage.start2, .writeByte3, .readByte2, .wcStartWait, .wcAddrWait, .wcDataWait,
      .rrStartWait, .rrAddrWait, .rrReadWait]) :
    ((d.stage = .writeByte3 ∨ d.stage = .readByte2) ∧ d.pend = .none ∧ d.phase = .noInfo) ∨
    (d.ctrl.en = true ∧ (d.pend = .stopThenStart ∨ d.pend = .start ∨ d.pend = .byte)) := by
  obtain ⟨hstart, hbyte⟩ := hw
  have hno : d.ctrl.int ≠ true := by simp [hint]
  have hprimitive : d.stage = .writeByte3 ∨ d.stage = .readByte2 →
      ((d.stage = .writeByte3 ∨ d.stage = .readByte2) ∧ d.pend = .none ∧ d.phase = .noInfo) ∨
      (d.ctrl.en = true ∧ (d.pend = .stopThenStart ∨ d.pend = .start ∨ d.pend = .byte)) := by
    intro hs
    obtain ⟨hen, hp | hoff⟩ := (hbyte hs).resolve_left hno
    · exact .inr ⟨hen, .inr (.inr hp)⟩
    · exact .inl ⟨hs, hoff⟩
  have hqueued : d.pend = .start ∨ d.pend = .stopThenStart →
      d.pend = .stopThenStart ∨ d.pend = .start ∨ d.pend = .byte := by tauto
  simp only [List.mem_cons, List.not_mem_nil, or_false] at hst
  rcases hst with hs | hs | hs | hs | hs | hs | hs | hs | hs
  · obtain ⟨hen, hp⟩ := (hstart hs).resolve_left hno
    exact .inr ⟨hen, hqueued hp⟩
  · exact hprimitive (.inl hs)
  · exact hprimitive (.inr hs)
  all_goals
    simp only [Device.TransInv, hs, hint, Bool.false_eq_true, false_and, false_or, true_and] at ht
  · exact .inr ⟨ht.1, hqueued ht.2⟩
  · exact .inr ⟨ht.1, .inr (.inr ht.2.1)⟩
  · exact .inr ⟨ht.1, .inr (.inr ht.2.1)⟩
  · exact .inr ⟨ht.1, hqueued ht.2⟩
  · exact .inr ⟨ht.1, .inr (.inr ht.2.1)⟩
  · exact .inr ⟨ht.1, .inr (.inr ht.2.1)⟩

/-- In a state that meets the invariant no transceiver is halted. -/
theorem Device.MarksInv.xcvr_not_halted {d : Device} (h : d.MarksInv) : d.halted .xcvr = false := by
  obtain ⟨-, hmarks⟩ := h
  simp only [Device.halted, List.any_eq_false, beq_iff_eq]
  exact fun m hm => (hmarks m hm).1

/-! ### A step that ends a hold -/

/-- From `d` to `d'` the engine stays in its stage and the event comes, or the stop before a queued start
is executed. -/
def Device.AdvancesHold (d d' : Device) : Prop :=
  d'.stage = d.stage ∧
    (d'.ctrl.int = true ∨ (d.pend = .stopThenStart ∧ d'.pend = .start ∧ d'.ctrl.en = true))

theorem advancesHold_event (d : Device) (data : Byte) (code : Status) :
    d.AdvancesHold (({ d with data := data } : Device).event code) := ⟨rfl, .inl rfl⟩

theorem advancesHold_executeStop {d : Device} (hen : d.ctrl.en = true) (hp : d.pend = .stopThenStart) :
    d.AdvancesHold (executeStop d) :=
  ⟨rfl, .inr ⟨hp, by rw [executeStop, hp]; rfl, hen⟩⟩

section
variable {O : OadrLayout}

/-- On the open bus a transceiver's step that may draw a bus error ends the hold (R150, R156, R161). -/
theorem xcvrStep_advancesHold {d : Device} (hx : d.XcvrInv) (hh : d.halted .xcvr = false)
    (hen : d.ctrl.en = true) (hint : d.ctrl.int = false)
    (hp : d.pend = .stopThenStart ∨ d.pend = .start ∨ d.pend = .byte) (b : Byte) :
    d.AdvancesHold (xcvrStep O .busError b d) := by
  rcases hp with hq | hp
  · rw [xcvrStep_of_stop hh hen (by rw [hq]; rfl)]
    exact advancesHold_executeStop hen hq
  · obtain ⟨data, hdata⟩ := xcvrStep_busError (O := O) hx b hh hen hint hp
    rw [hdata]
    exact advancesHold_event d data _

/-- On the closed bus the joint step of a master at rest or owner ends the hold (R314–R319). -/
theorem jointMove_advancesHold {m m' : BusMove} (hx : m.master.XcvrInv) (hen : m.master.ctrl.en = true)
    (hp : m.master.pend = .stopThenStart ∨ m.master.pend = .start ∨ m.master.pend = .byte)
    (hphase : m.master.phase = .noInfo ∨ m.master.phase.isOwner = true)
    (hm : jointMove O m = some m') : m.master.AdvancesHold m'.master := by
  obtain ⟨-, -, -, -, hstep, -⟩ := hx
  rcases hp with hq | hp
  · rw [jointMove_stop hm (by rw [hq]; rfl)]
    exact advancesHold_executeStop hen hq
  · obtain ⟨data, code, hmaster⟩ := jointMove_event hm
      (hp.imp_right fun hbyte => ⟨hbyte, Status.byteStep_of_master (hstep hbyte) hphase⟩)
    rw [hmaster]
    exact advancesHold_event m.master data code

end

/-- The joint step is enabled when the master waits and no slave's event is pending (R313). -/
theorem jointEnabled_of {m : BusMove} (hen : m.master.ctrl.en = true) (hint : m.master.ctrl.int = false)
    (hh : m.master.halted .xcvr = false) (hslaves : ∀ e ∈ m.slaves, e.ctrl.int = false) :
    jointEnabled m = true := by
  simpa [jointEnabled, hen, hint, hh] using hslaves

/-- Settles O57: every move keeps `PrimitiveWaits`; the pending command of a hold is a queued stop, which
can be executed, or a start or byte step, which can be followed by an event. -/
theorem waitingEngineHasAnEnabledStep : Obligations.WaitingEngineHasAnEnabledStep := by
  refine ⟨fun s s' t k d hC ht hs hd h hstep => ?_, fun s k d hs hd ht hw hint hst => ?_⟩
  · obtain ⟨-, -, -, hmoves⟩ := turn_moves hstep
    obtain ⟨d', hd', hm⟩ := hmoves k d hd
    exact ⟨d', hd', hm.primitiveWaits hC hs hd ht h⟩
  · intro moves
    refine (pending_of_hold ht hw hint hst).imp_right fun ⟨hen, hp⟩ => ?_
    obtain ⟨hx, -, -, hmarks⟩ := hs.device hd
    have hh := hmarks.xcvr_not_halted
    refine ⟨fun hb => ⟨.busError, 0, _, _, stepTurn_xcvr hb hd _ _, State.after_get hd _ _,
      xcvrStep_advancesHold hx hh hen hint hp 0⟩, fun hb hk hphase hslaves => ?_⟩
    subst hk
    obtain ⟨ds, hdevs⟩ : ∃ ds, s.devs = d :: ds := by
      cases hl : s.devs with
      | nil => simp [hl] at hd
      | cons e ds => exact ⟨ds, by simpa [hl] using hd⟩
    have henabled : jointEnabled { master := d, slaves := ds, target := s.target } = true :=
      jointEnabled_of hen hint hh fun e he => by
        obtain ⟨j, hj⟩ := List.mem_iff_getElem?.mp he
        exact hslaves j e (by rw [hdevs]; exact hj)
    obtain ⟨m', hm⟩ := Option.ne_none_iff_exists'.mp (hs.jointMove_ne_none hdevs)
    exact ⟨_, _, stepTurn_joint_of_move hb hdevs henabled hm, rfl,
      jointMove_advancesHold hx hen hp hphase hm⟩

end Sys2Proof.Machine

namespace Sys2Proof.Machine

/-! ### Issuing an operation that the context checks allow (R215, R216) -/

theorem Device.goto_of_stage {d : Device} {st : Stage} (h : d.stage = st) : d.goto st = d := by
  rw [← h]; rfl

theorem State.setCur_eq_after {s : State} {who : Issuer} (h : s.issuer = who) (d : Device) :
    s.setCur d = s.after s.cur who d := by
  rw [← h]; rfl

theorem inFlightCheck_of_idle {d : Device} (h : d.stage = .idle) : inFlightCheck d = none := if_pos h

section
variable {s : State} {d d' : Device} {i : Instr} {op : OpKind} {st : Stage}

/-- An allowed operation of a host runs its line 1. -/
theorem exec_of_line1 (hi : IsLine1 i op st) (hd : s.devs[s.cur]? = some d) (hw : s.issuer = .host)
    (hc : contextCheck (roleOnBus s.cfg s.cur) .host op d = none) :
    exec i s = .next (s.setCur (issueLine1 s.cfg st d)) := by
  have hmulti : multiLine op st s = .next (s.setCur (issueLine1 s.cfg st d)) := by
    rw [multiLine, onCur_some _ hd, hw, hc]
  have hsingle : ∀ line, singleLine op st line s = .next (s.setCur (issueLine1 s.cfg st d)) := by
    intro line
    rw [singleLine, onCur_some _ hd, hw, hc]
  cases hi with
  | configureMaster | configureSlave | start | writeByte | readByte | setAck | writeCommand
  | readResponse => exact hmulti
  | stop | armForReply | loadData | readData | clearEvent | recover | readStatus => exact hsingle _

/-- A master's host at rest runs line 1 of what R215.2 lets it issue. -/
theorem exec_of_masterIssues (h : s.masterIssues d) (hi : IsLine1 i op st) (hop : op ∈ masterOps) :
    exec i s = .next (s.setCur (issueLine1 s.cfg st d)) := by
  obtain ⟨hd, hw, hr, hs⟩ := h
  exact exec_of_line1 hi hd hw (by rw [contextCheck_master hr, if_pos hop, inFlightCheck_of_idle hs])

/-- A slave's handler runs the line of what R215.3 lets it issue. -/
theorem exec_of_handlerIssues {line : Device → Eff} (h : s.handlerIssues d)
    (hl : IsLine s.cfg i op line) (hop : op ∈ handlerOps) :
    exec i s = .next (s.setCur ((line d).settle .handler d)) := by
  obtain ⟨hd, hw, hr⟩ := h
  have hc : contextCheck (roleOnBus s.cfg s.cur) .handler op d = none := by
    simp [contextCheck, hr, hop]
  have hsingle : ∀ st, singleLine op st line s = .next (s.setCur ((line d).settle .handler d)) := by
    intro st
    rw [singleLine, onCur_some _ hd, hw, hc]
  cases hl <;> exact hsingle _

section
variable {cfg : Config}

theorem issueLine1_done (h : runStage cfg (d.goto st) = .done d') : issueLine1 cfg st d = d' := by
  simp [issueLine1, h]

theorem issueLine1_fault {r : FaultReason} (h : runStage cfg (d.goto st) = .fault r d') :
    issueLine1 cfg st d = d'.raise r .engine := by
  simp [issueLine1, h]

theorem issueLine1_refuse {r : RefuseReason} (h : runStage cfg (d.goto st) = .refuse r) :
    issueLine1 cfg st d = d.refuse r := by
  simp [issueLine1, h]

/-- Line 1 of a primitive with one line is that line, which a handler runs too. -/
theorem runStage_of_singleLine {line : Device → Eff} (hi : IsLine1 i op st) (hl : IsLine cfg i op line) :
    runStage cfg (d.goto st) = lastLine line (d.goto st) := by
  cases hl <;> cases hi <;> rfl

end

/-- An operation of a host whose line 1 is refused changes nothing but the mark (R346). -/
theorem exec_of_line1_refuse {r : RefuseReason} (hi : IsLine1 i op st) (hd : s.devs[s.cur]? = some d)
    (hw : s.issuer = .host) (hc : contextCheck (roleOnBus s.cfg s.cur) .host op d = none)
    (hr : runStage s.cfg (d.goto st) = .refuse r) : exec i s = .next (s.setCur (d.refuse r)) := by
  rw [exec_of_line1 hi hd hw hc, issueLine1_refuse hr]

/-- A single line that neither faults nor is refused does the same for a master's host and a slave's
handler: the host's engine is at rest again after it. -/
theorem exec_of_singleLine {f : Device → Device} (h : s.masterIssues d ∨ s.handlerIssues d)
    (hi : IsLine1 i op st) (hl : IsLine s.cfg i op (.done ∘ f)) (hm : op ∈ masterOps)
    (hh : op ∈ handlerOps) (hf : ∀ x st, (f x).goto st = f (x.goto st)) :
    exec i s = .next (s.setCur (f d)) := by
  obtain h | h := h
  · have hrun : runStage s.cfg (d.goto st) = .done (f d) := by
      obtain ⟨-, -, -, hs⟩ := h
      have hidle : (f (d.goto st)).goto .idle = f d := by
        rw [hf]
        exact congrArg f (Device.goto_of_stage hs)
      rw [runStage_of_singleLine hi hl, ← hidle]
      rfl
    rw [exec_of_masterIssues h hi hm, issueLine1_done hrun]
  · exact exec_of_handlerIssues h hl hh

end

/-! ### Status and data (R208, R209, R213) -/

theorem readData_goto (d : Device) (st : Stage) :
    readData (d.goto st) = ((readData d).1, (readData d).2.goto st) := by
  cases hi : d.ctrl.int with
  | true => rw [readData_of_int d hi, readData_of_int (d.goto st) hi]; rfl
  | false => rw [readData_of_busy d hi, readData_of_busy (d.goto st) hi]; rfl

theorem writeData_goto (v : Byte) (d : Device) (st : Stage) :
    writeData v (d.goto st) = (writeData v d).goto st := by
  cases hi : d.ctrl.int with
  | true => rw [writeData_of_int v d hi, writeData_of_int v (d.goto st) hi]; rfl
  | false => rw [writeData_of_busy v d hi, writeData_of_busy v (d.goto st) hi]; rfl

/-- The status code in the spec's own numbers (R32, R95). -/
theorem statusCode_standard (d : Device) :
    d.statusCode standardChip = if d.ctrl.int then d.phase.code else 0xF8 := by
  rw [Device.statusCode_eq standardChip_wellFormed]
  split <;> rfl

/-- Settles O26: each primitive is one line, whoever issues it. -/
theorem statusAndDataPrimitives : Obligations.StatusAndDataPrimitives := by
  refine ⟨fun s d hC h => ?_, fun s d h => ?_, fun s d v h => ?_⟩
  · have hx := exec_of_singleLine (f := fun x => x.returning (.code (x.statusCode s.cfg.chip))) h
      .readStatus .readStatus (by decide) (by decide) fun _ _ => rfl
    rwa [show s.cfg.chip = standardChip from hC, statusCode_standard] at hx
  · have hx := exec_of_singleLine
      (f := fun x => (readData x).2.returning (.byte (readData x).1)) h
      .readData .readData (by decide) (by decide) fun x st => by rw [readData_goto]; rfl
    refine ⟨fun hi => ?_, fun hi => ?_⟩
    · rwa [readData_of_int d hi] at hx
    · rwa [readData_of_busy d hi] at hx
  · have hx := exec_of_singleLine (f := writeData v) h
      (.loadData v) (.loadData v) (by decide) (by decide) fun x st => (writeData_goto v x st).symm
    refine ⟨fun hi => ?_, fun hi => ?_⟩
    · rwa [writeData_of_int v d hi] at hx
    · rwa [writeData_of_busy v d hi] at hx


/-! ### The engine's stages that write `CTRL` and those that wait (R202, R216, R245) -/

/-- The stages that write `CTRL` as a command: the stage, its word and its successor. -/
def goStages : List (Stage × Byte × Stage) :=
  [(.start1, 0xA4, .start2), (.writeByte2, 0x84, .writeByte3),
   (.readByte1 false, 0x84, .readByte2), (.readByte1 true, 0xC4, .readByte2),
   (.wcStartGo, 0xA4, .wcStartWait), (.wcAddrGo, 0x84, .wcAddrWait), (.wcDataGo, 0x84, .wcDataWait),
   (.rrStartGo, 0xA4, .rrStartWait), (.rrAddrGo, 0x84, .rrAddrWait), (.rrReadGo, 0x84, .rrReadWait)]

/-- The stages that hold until `INT = 1`, and their successors. -/
def holdStages : List (Stage × Stage) :=
  [(.start2, .idle), (.writeByte3, .writeByte4), (.readByte2, .readByte3),
   (.wcStartWait, .wcAddrLoad), (.wcAddrWait, .wcAddrTest), (.wcDataWait, .wcDataTest),
   (.rrStartWait, .rrAddrLoad), (.rrAddrWait, .rrAddrTest), (.rrReadWait, .rrReadTest)]

section
variable {cfg : Config} {d d' : Device} {v : Byte} {st nxt : Stage}

theorem ctrlThen_done (h : ctrlWrite cfg v d = .done d') : ctrlThen cfg v nxt d = .done (d'.goto nxt) := by
  simp [ctrlThen, h]

theorem ctrlThen_fault {r : FaultReason} (h : ctrlWrite cfg v d = .fault r d') :
    ctrlThen cfg v nxt d = .fault r d' := by
  simp [ctrlThen, h]

theorem runStage_of_go (hC : cfg.chip = standardChip) (hst : d.stage = st)
    (hg : (st, v, nxt) ∈ goStages) : runStage cfg d = ctrlThen cfg v nxt d := by
  simp only [goStages, List.mem_cons, List.not_mem_nil, or_false, Prod.mk.injEq] at hg
  rcases hg with ⟨rfl, rfl, rfl⟩ | ⟨rfl, rfl, rfl⟩ | ⟨rfl, rfl, rfl⟩ | ⟨rfl, rfl, rfl⟩ | ⟨rfl, rfl, rfl⟩ |
      ⟨rfl, rfl, rfl⟩ | ⟨rfl, rfl, rfl⟩ | ⟨rfl, rfl, rfl⟩ | ⟨rfl, rfl, rfl⟩ | ⟨rfl, rfl, rfl⟩ <;>
    simp only [runStage, hst, hC] <;> rfl

theorem runStage_of_hold (hst : d.stage = st) (hh : (st, nxt) ∈ holdStages) :
    runStage cfg d = hold nxt d := by
  simp only [holdStages, List.mem_cons, List.not_mem_nil, or_false, Prod.mk.injEq] at hh
  rcases hh with ⟨rfl, rfl⟩ | ⟨rfl, rfl⟩ | ⟨rfl, rfl⟩ | ⟨rfl, rfl⟩ | ⟨rfl, rfl⟩ | ⟨rfl, rfl⟩ |
      ⟨rfl, rfl⟩ | ⟨rfl, rfl⟩ | ⟨rfl, rfl⟩ <;>
    simp only [runStage, hst]

theorem hold_of_int (h : d.ctrl.int = true) : hold nxt d = .done (d.goto nxt) := by simp [hold, h]

theorem hold_of_busy (h : d.ctrl.int = false) : hold nxt d = .done d := by simp [hold, h]

/-- `write_byte` returns the code (R205 line 4). -/
theorem runStage_writeByte4 (hst : d.stage = .writeByte4) :
    runStage cfg d = .done ((d.returning (.code (d.statusCode cfg.chip))).goto .idle) := by
  simp only [runStage, hst]

/-- `read_byte` takes the code (R206 line 3). -/
theorem runStage_readByte3 (hst : d.stage = .readByte3) :
    runStage cfg d = .done (d.goto (.readByte4 (d.statusCode cfg.chip))) := by
  simp only [runStage, hst]

/-- `read_byte` reads `DATA` and returns it with the code (R206 line 4). -/
theorem runStage_readByte4 {code : Byte} (hst : d.stage = .readByte4 code) :
    runStage cfg d = .done (((readData d).2.returning (.byteCode (readData d).1 code)).goto .idle) := by
  simp only [runStage, hst]

end

/-- Settles O30: the holds by `INT`, the returning lines by what they read. -/
theorem holdsWaitAndPrimitivesReturn : Obligations.HoldsWaitAndPrimitivesReturn := by
  refine ⟨fun s k d st nxt hd hh hst hmem => ?_, fun s k d code hd hh => ?_⟩
  · have hrun := runStage_of_hold (cfg := s.cfg) hst hmem
    exact ⟨fun hi => stepTurn_engine_done hd hh (hrun.trans (hold_of_int hi)),
      fun hi => stepTurn_engine_done hd hh (hrun.trans (hold_of_busy hi))⟩
  · refine ⟨fun hst => stepTurn_engine_done hd hh (runStage_writeByte4 hst),
      fun hst => stepTurn_engine_done hd hh (runStage_readByte3 hst), fun hst hi => ?_, fun hst hi => ?_⟩
    · have hrun := runStage_readByte4 (cfg := s.cfg) hst
      rw [readData_of_int d hi] at hrun
      exact stepTurn_engine_done hd hh hrun
    · have hrun := runStage_readByte4 (cfg := s.cfg) hst
      rw [readData_of_busy d hi] at hrun
      exact stepTurn_engine_done hd hh hrun

/-! ### The last lines of `configure_*` and `set_ack` -/

/-- A word without `I` that does not repeat `STO` is refused (R93). -/
theorem ctrlWrite_of_stoChange {cfg : Config} {d : Device} {v : Byte} (hC : cfg.chip = standardChip)
    (hi : v.getLsbD 7 = false) (hp : v.getLsbD 4 ≠ d.ctrl.sto) :
    ctrlWrite cfg v d = .refuse .reservedControlWord := by
  refine ctrlWrite_reserved cfg ((reservedWord_iff _ v _).mpr (.inr (.inr (.inr (.inr ?_)))))
  rw [hC]
  exact ⟨hi, hp⟩

/-- The word of `set_ack` has neither `I` nor `P`, whatever `CTRL` line 1 read. -/
theorem wordSetAck_bits (c : Byte) (a : Bool) :
    (wordSetAck standardWords c a).getLsbD 7 = false ∧ (wordSetAck standardWords c a).getLsbD 4 = false := by
  cases a <;> simp [wordSetAck, standardWords]

/-- A last line met with a stop pending is refused, its stage stays (log entry 23). -/
theorem runStage_lastLine_of_sto {cfg : Config} {d : Device} (hC : cfg.chip = standardChip)
    (hs : d.ctrl.sto = true)
    (hst : d.stage = .configureMaster4 ∨ d.stage = .configureSlave3 ∨ ∃ c a, d.stage = .setAck2 c a) :
    runStage cfg d = .refuse .reservedControlWord := by
  have hrefuse : ∀ {v : Byte} {f : Device → Device}, v.getLsbD 7 = false → v.getLsbD 4 = false →
      (ctrlWrite cfg v d).map f = .refuse .reservedControlWord := by
    intro v f hi hp
    rw [ctrlWrite_of_stoChange hC hi (by rw [hp, hs]; exact Bool.false_ne_true)]
    rfl
  obtain hst | hst | ⟨c, a, hst⟩ := hst <;> simp only [runStage, hst, hC]
  · exact hrefuse rfl rfl
  · exact hrefuse rfl rfl
  · exact hrefuse (wordSetAck_bits c a).1 (wordSetAck_bits c a).2

/-- Settles O29: a go stage is a control write and a `goto`. -/
theorem goStagesWriteTheirControlWord : Obligations.GoStagesWriteTheirControlWord := by
  intro s k d hC hd hh
  refine ⟨fun st nxt v hst hmem => ?_, fun hs hst => ?_⟩
  · have hrun := runStage_of_go hC hst hmem
    refine ⟨fun d' hw => stepTurn_engine_done hd hh (hrun.trans (ctrlThen_done hw)), fun r d' hw => ?_⟩
    obtain ⟨rfl, -⟩ := ctrlWrite_fault s.cfg d hw
    rw [stepTurn_engine hd, engineTurn, hh, hrun, ctrlThen_fault hw]
    rfl
  · rw [stepTurn_engine hd, engineTurn, hh, runStage_lastLine_of_sto hC hs hst]
    rfl

end Sys2Proof.Machine

namespace Sys2Proof.Machine

/-! ### The spec's control words, class by class (R94, R141) -/

/-- The device after the field updates of a command word, the event taken (R141, R143). -/
abbrev Device.commanded (d : Device) (ea sta sto ie : Bool) : Device :=
  { d with ctrl := { d.ctrl with int := false, ea := ea, sta := sta, sto := sto, en := true, ie := ie } }

theorem Device.commanded_of_en {d : Device} (h : d.ctrl.en = true) (ea sta sto ie : Bool) :
    d.commanded ea sta sto ie =
      { d with ctrl := { d.ctrl with int := false, ea := ea, sta := sta, sto := sto, ie := ie } } := by
  simp [h]

section
variable {cfg : Config} {d : Device} (hC : cfg.chip = standardChip)
include hC

theorem standard_ctrl_wellFormed : cfg.chip.ctrl.WellFormed := by
  rw [hC]; exact standardCtrl_wellFormed

theorem ctrlWrite_configWord (ea en ie : Bool) (hs : d.ctrl.sto = false) :
    ctrlWrite cfg (ctrlWord standardCtrl false ea false false false en ie) d =
      .done (configCmd d.ctrl.en
        { d with ctrl := { d.ctrl with ea := ea, sta := false, en := en, ie := ie } }) := by
  have hL := standard_ctrl_wellFormed hC
  have hw := ctrlWrite_config cfg d hL ea d.ctrl.sto false en ie
  rw [writeFields_ctrlWord hL, if_pos rfl, hC] at hw
  have hword : ctrlWord standardCtrl false ea false false false en ie =
      ctrlWord standardCtrl false ea false d.ctrl.sto false en ie := by rw [hs]
  rw [hword]
  exact hw

/-- A command word while the device is busy (R141). -/
theorem ctrlWrite_commandWord_busy (ea sta sto ie : Bool) (hne : sta = true → sto = false)
    (hb : d.busy = true) :
    ctrlWrite cfg (ctrlWord standardCtrl true ea sta sto false true ie) d = .fault .commandWhileBusy d := by
  have hL : standardCtrl.WellFormed := standardCtrl_wellFormed
  refine ctrlWrite_busy cfg d _ ?_ ?_ hb <;> rw [hC]
  · simpa [reservedWord, hL] using hne
  · simp [hL]

variable (hb : d.busy = false) (ea ie : Bool)
include hb

theorem ctrlWrite_startWord :
    ctrlWrite cfg (ctrlWord standardCtrl true ea true false false true ie) d =
      startCmd cfg d (d.commanded ea true false ie) := by
  have hw := ctrlWrite_start cfg d (standard_ctrl_wellFormed hC) ea false ie hb
  rwa [writeFields_ctrlWord (standard_ctrl_wellFormed hC), hC] at hw

theorem ctrlWrite_stopWord :
    ctrlWrite cfg (ctrlWord standardCtrl true ea false true false true ie) d =
      .done (stopCmd (d.commanded ea false true ie)) := by
  have hw := ctrlWrite_stop cfg d (standard_ctrl_wellFormed hC) ea false ie hb
  rwa [writeFields_ctrlWord (standard_ctrl_wellFormed hC), hC] at hw

theorem ctrlWrite_continueWord :
    ctrlWrite cfg (ctrlWord standardCtrl true ea false false false true ie) d =
      continueCmd d (d.commanded ea false false ie) := by
  have hw := ctrlWrite_continue cfg d (standard_ctrl_wellFormed hC) ea false ie hb
  rwa [writeFields_ctrlWord (standard_ctrl_wellFormed hC), hC] at hw

end

/-- A `CONFIG` word that leaves the transceiver on (R142): off before, it starts off the bus. -/
theorem configCmd_on {w : Device} (en : Bool) (h : w.ctrl.en = true) :
    configCmd en w =
      { w with phase := if en then w.phase else .noInfo, pend := if en then w.pend else .none } := by
  cases en <;> simp [configCmd, h, Device.unaddressed]

/-- A `CONFIG` word that leaves the transceiver off (R148). -/
theorem configCmd_off {w : Device} (en : Bool) (h : w.ctrl.en = false) : configCmd en w = w.switchOff := by
  simp [configCmd, h]

/-! ### `start` and `stop` (R203, R204) -/

/-- Line 1 of a primitive that is a go stage: its control write, then its successor. -/
theorem exec_of_go {s : State} {d : Device} {i : Instr} {op : OpKind} {st nxt : Stage} {v : Byte}
    (hC : s.standard) (h : s.masterIssues d) (hi : IsLine1 i op st) (hop : op ∈ masterOps)
    (hg : (st, v, nxt) ∈ goStages) :
    (∀ d', ctrlWrite s.cfg v (d.goto st) = .done d' → exec i s = .next (s.setCur (d'.goto nxt))) ∧
    (∀ r, ctrlWrite s.cfg v (d.goto st) = .fault r (d.goto st) →
      exec i s = .next (s.setCur ((d.goto st).raise r .engine))) := by
  have hrun : runStage s.cfg (d.goto st) = _ := runStage_of_go hC rfl hg
  rw [exec_of_masterIssues h hi hop]
  exact ⟨fun d' hw => by rw [issueLine1_done (hrun.trans (ctrlThen_done hw))],
    fun r hw => by rw [issueLine1_fault (hrun.trans (ctrlThen_fault hw))]⟩

/-- Settles O22: the word 0xA4 by the pending command, as for a direct write (R143). -/
theorem startPrimitive : Obligations.StartPrimitive := by
  intro s d hC h
  obtain ⟨hdone, hfault⟩ := exec_of_go hC h .start (by decide)
    (show (.start1, 0xA4, .start2) ∈ goStages by decide)
  refine ⟨fun hb => hfault _ (ctrlWrite_commandWord_busy hC false true false false (fun _ => rfl) hb),
    fun hb => ?_⟩
  have hw : ctrlWrite s.cfg 0xA4 (d.goto .start1) = _ :=
    ctrlWrite_startWord hC (d := d.goto .start1) hb false false
  exact ⟨fun h h' => hdone _ (hw.trans (startCmd_of_noStop (Pend.isStop_eq_false h h'))), fun h =>
    ⟨fun ho => hdone _ (hw.trans (startCmd_serialise ((Pend.isStop_iff _).mpr h) ho)),
      fun ho => hfault _ (hw.trans (startCmd_fault ((Pend.isStop_iff _).mpr h) ho))⟩⟩

/-- Settles O23: the word 0x94 by the pending command and by whether the device holds the bus, as for a
direct write (R146, R147). -/
theorem stopPrimitive : Obligations.StopPrimitive := by
  intro s d hC h ctrl
  have hx := exec_of_masterIssues h .stop (by decide)
  obtain ⟨-, -, -, hs⟩ := h
  have hword : s.cfg.chip.words.stop = ctrlWord standardCtrl true false false true false true false := by
    rw [hC]; rfl
  have hrun := runStage_of_singleLine (cfg := s.cfg) (d := d) .stop .stop
  rw [lastLine, stopLine, hword] at hrun
  refine ⟨fun hb => ?_, fun hb => ?_⟩
  · rw [ctrlWrite_commandWord_busy (d := d.goto .stop1) hC false false true false nofun hb] at hrun
    rw [hx, issueLine1_fault hrun]
    rfl
  · rw [ctrlWrite_stopWord (d := d.goto .stop1) hC hb] at hrun
    have hdone : ∀ {w d' : Device}, stopCmd { d with ctrl := ctrl true, stage := .stop1 } = w →
        w.goto .idle = d'.goto .idle → d'.stage = .idle → exec .stop s = .next (s.setCur d') := by
      rintro _ d' rfl hgoto hidle
      rw [hx, issueLine1_done hrun, ← Device.goto_of_stage hidle, ← hgoto]
      rfl
    refine ⟨fun h => hdone (stopCmd_of_stop ((Pend.isStop_iff _).mpr h)) rfl hs, fun h h' => ?_⟩
    have hcmd := stopCmd_of_noStop (w := { d with ctrl := ctrl true, stage := .stop1 })
      (Pend.isStop_eq_false h h')
    exact ⟨fun ho => hdone (hcmd.trans (if_pos ho)) rfl hs,
      fun ho => hdone (hcmd.trans (if_neg (by simp [ho]))) rfl hs⟩

/-! ### `set_ack` (R210) -/

theorem runStage_setAck1 {cfg : Config} {d : Device} {a : Bool} (hst : d.stage = .setAck1 a) :
    runStage cfg d = if d.ctrl.sto then .refuse .setAckDuringStop
      else .done (d.goto (.setAck2 (d.ctrl.toByte cfg.chip.ctrl) a)) := by
  simp only [runStage, hst, setAckLine1]

/-- Line 2 with the value line 1 has read. -/
theorem runStage_setAck2 {cfg : Config} {d : Device} {a : Bool} (hC : cfg.chip = standardChip)
    (hs : d.ctrl.sto = false) (hst : d.stage = .setAck2 (d.ctrl.toByte standardCtrl) a) :
    runStage cfg d = .done ((configCmd d.ctrl.en
      { d with ctrl := { d.ctrl with ea := a, sta := false } }).goto .idle) := by
  have hrun : runStage cfg d = ctrlThen cfg
      (wordSetAck standardWords (d.ctrl.toByte standardCtrl) a) .idle d := by
    simp only [runStage, hst, hC, standardChip_words]
  rw [hrun, wordSetAck_eq, ctrlThen_done (ctrlWrite_configWord hC a d.ctrl.en d.ctrl.ie hs)]

/-- Settles O27: line 2 is a `CONFIG` word that changes `EA` and `STA` only (R142), or switches off
(R148). -/
theorem setAckKeepsAPendingEvent : Obligations.SetAckKeepsAPendingEvent := by
  intro s d a hC h
  obtain ⟨hd, hw, -, hidle⟩ := id h
  have hline1 := runStage_setAck1 (cfg := s.cfg) (d := d.goto (.setAck1 a)) rfl
  rw [exec_of_masterIssues h (.setAck a) (by decide)]
  refine ⟨fun hs => ?_, fun hs => ?_⟩
  · rw [issueLine1_refuse (hline1.trans (if_pos hs))]
    rfl
  · let d1 := d.goto (.setAck2 (d.ctrl.toByte standardCtrl) a)
    have hline2 := runStage_setAck2 (d := d1) hC hs rfl
    have hturn : ∀ {w d' : Device}, d.halted .engine = false →
        configCmd d.ctrl.en { d1 with ctrl := { d.ctrl with ea := a, sta := false } } = w →
        w.goto .idle = d'.goto .idle → d'.stage = .idle →
        runTurns [.engine s.cur] (s.setCur d1) = .next (s.setCur d') := by
      rintro _ d' hh rfl hgoto hidle
      rw [State.setCur_eq_after hw, State.setCur_eq_after hw, runTurns_engine (d := d1) hd hh hline2,
        ← Device.goto_of_stage hidle, ← hgoto]
      rfl
    refine ⟨?_, fun hh hen => ?_, fun hh hen => ?_⟩
    · rw [issueLine1_done (hline1.trans (if_neg (by simp [hs]))), hC]
      rfl
    · refine hturn hh (configCmd_on _ hen) ?_ hidle
      simp [d1, hen, Device.goto]
    · refine hturn hh (configCmd_off _ hen) ?_ hidle
      simp [d1, hs, Device.goto, Device.switchOff, Device.unaddressed, Device.setInt, Device.setSto]

/-! ### The handler's primitives (R207, R211, R212) -/

section
variable {cfg : Config} {d : Device} (hC : cfg.chip = standardChip)
include hC

/-- A command word without `N` is refused (R93). -/
theorem ctrlWrite_of_commandOff (ea sta sto ie : Bool) :
    ctrlWrite cfg (ctrlWord standardCtrl true ea sta sto false false ie) d =
      .refuse .reservedControlWord := by
  have hL : standardCtrl.WellFormed := standardCtrl_wellFormed
  refine ctrlWrite_reserved cfg ((reservedWord_iff _ _ _).mpr (.inr (.inr (.inl ?_))))
  simp [hC, hL]

end

section
variable {s : State} {d : Device} (hC : s.standard) (h : s.handlerIssues d)
include hC h

theorem exec_armForReply_of_handler :
    exec .armForReply s = .next (s.setCur ((ctrlWrite s.cfg 0xC5 d).settle .handler d)) := by
  rw [exec_of_handlerIssues h .armForReply (by decide), armForReplyLine, hC]
  rfl

theorem exec_clearEvent_of_handler :
    exec .clearEvent s = .next (s.setCur ((ctrlWrite s.cfg
      (ctrlWord standardCtrl true d.ctrl.ea false false false d.ctrl.en d.ctrl.ie) d).settle .handler d)) := by
  rw [exec_of_handlerIssues h .clearEvent (by decide), clearEventLine, hC, standardChip_words,
    standardChip_ctrl, wordClearEvent_eq]

theorem exec_recover_of_handler :
    exec .recover s = .next (s.setCur ((ctrlWrite s.cfg
      (ctrlWord standardCtrl true d.ctrl.ea false true false d.ctrl.en d.ctrl.ie) d).settle .handler d)) := by
  rw [exec_of_handlerIssues h .recover (by decide), recoverLine, hC, standardChip_words,
    standardChip_ctrl, wordRecover_eq]

/-- With an event pending, `arm_for_reply` and `clear_event` are one `CONTINUE` word with different
enables (R144). -/
theorem exec_continue_of_handler (hi : d.ctrl.int = true) (hen : d.ctrl.en = true)
    {f : Bool → Bool → Device}
    (hf : ∀ ea ie, continueCmd d { d with ctrl := { d.ctrl with
      int := false, ea := ea, sta := false, sto := false, ie := ie } } = .done (f ea ie)) :
    exec .armForReply s = .next (s.setCur (f true true)) ∧
    exec .clearEvent s = .next (s.setCur (f d.ctrl.ea d.ctrl.ie)) := by
  have hw : ∀ ea ie, ctrlWrite s.cfg (ctrlWord standardCtrl true ea false false false true ie) d =
      .done (f ea ie) := by
    intro ea ie
    rw [ctrlWrite_continueWord hC (d.busy_of_int hi), Device.commanded_of_en hen, hf]
  constructor
  · have harm : ctrlWrite s.cfg 0xC5 d = _ := hw true true
    rw [exec_armForReply_of_handler hC h, harm]
    rfl
  · rw [exec_clearEvent_of_handler hC h, hen, hw]
    rfl

end

/-- Settles O28: a `CONTINUE` or `STOP` word by the class of the phase; without an event a `CONTINUE`
faults, and without `EN` the words that keep it are reserved. -/
theorem handlerPrimitives : Obligations.HandlerPrimitives := by
  refine ⟨fun s d hC h => ?_, fun s d hC h => ⟨fun hi hb => ⟨?_, fun hen => ?_⟩, fun hen => ⟨?_, ?_⟩⟩⟩
  · intro c
    refine ⟨fun i v hmem => ?_, fun hi hen => ?_⟩
    · have hx : exec i s = .next (s.setCur ((ctrlWrite s.cfg v d).settle .handler d)) := by
        simp only [List.mem_cons, List.not_mem_nil, or_false, Prod.mk.injEq] at hmem
        rcases hmem with ⟨rfl, rfl⟩ | ⟨rfl, rfl⟩ | ⟨rfl, rfl⟩
        · exact exec_armForReply_of_handler hC h
        · rw [exec_clearEvent_of_handler hC h, ← wordClearEvent_eq]
          rfl
        · rw [exec_recover_of_handler hC h, ← wordRecover_eq]
          rfl
      exact ⟨fun d' hw => by rw [hx, hw]; rfl, fun r hw => by rw [hx, hw]; rfl⟩
    · refine ⟨fun hp => exec_continue_of_handler hC h hi hen fun _ _ => continueCmd_of_reply hi hp,
        fun hp => exec_continue_of_handler hC h hi hen fun _ _ => continueCmd_of_receive hi (.inr hp),
        fun hp => exec_continue_of_handler hC h hi hen fun _ _ => continueCmd_of_end hi (.inr hp),
        fun hown hp => ?_⟩
      rw [exec_recover_of_handler hC h, hen, ctrlWrite_stopWord hC (d.busy_of_int hi),
        stopCmd_of_noStop (by rw [hp]; rfl), if_neg (by simp [hown]), Device.commanded_of_en hen]
      rfl
  · rw [exec_armForReply_of_handler hC h]
    have hw : ctrlWrite s.cfg 0xC5 d = _ := ctrlWrite_continueWord hC hb true true
    rw [hw, continueCmd_of_noEvent hi]
    rfl
  · rw [exec_clearEvent_of_handler hC h, hen, ctrlWrite_continueWord hC hb, continueCmd_of_noEvent hi]
    rfl
  · rw [exec_clearEvent_of_handler hC h, hen, ctrlWrite_of_commandOff hC]
    rfl
  · rw [exec_recover_of_handler hC h, hen, ctrlWrite_of_commandOff hC]
    rfl

end Sys2Proof.Machine

namespace Sys2Proof.Machine

/-! ### `configure_master` and `configure_slave` (R200, R201) -/

section
variable {busRole : Option Role} {d : Device} (hs : d.stage = .idle)
include hs

/-- R215 allows a configure for the role the device has or may take. -/
theorem contextCheck_configureMaster (hr : d.role ≠ .slave) (hb : busRole ≠ some .slave) :
    contextCheck busRole .host .configureMaster d = none := by
  cases hrole : d.role with
  | unconfigured => simp [contextCheck, hrole, configuresOtherRole, hb, inFlightCheck_of_idle hs]
  | master => rw [contextCheck_master hrole, if_pos (by decide), inFlightCheck_of_idle hs]
  | slave => exact absurd hrole hr

theorem contextCheck_configureSlave (hr : d.role ≠ .master) (hb : busRole ≠ some .master) :
    contextCheck busRole .host .configureSlave d = none := by
  cases hrole : d.role with
  | unconfigured => simp [contextCheck, hrole, configuresOtherRole, hb, inFlightCheck_of_idle hs]
  | master => exact absurd hrole hr
  | slave => simp [contextCheck, hrole, configuresOtherRole, hb, inFlightCheck_of_idle hs]

end

/-! The prescaler by its divisor (R102, R200 line 1). -/

theorem Prescaler.value_ofRequest (presc : Byte) :
    (Prescaler.ofRequest presc).value =
      if presc.toNat ∈ [1, 4, 16, 64] then (presc.toNat : Int) else 1 := by
  by_cases h1 : presc = 1
  · rw [h1]; rfl
  by_cases h4 : presc = 4
  · rw [h4]; rfl
  by_cases h16 : presc = 16
  · rw [h16]; rfl
  by_cases h64 : presc = 64
  · rw [h64]; rfl
  have hno : presc.toNat ∉ [1, 4, 16, 64] := by
    simp only [List.mem_cons, List.not_mem_nil, or_false, not_or]
    refine ⟨?_, ?_, ?_, ?_⟩ <;> bv_omega
  rw [if_neg hno, Prescaler.ofRequest, if_neg h4, if_neg h16, if_neg h64]
  rfl

theorem standardChip_presc : standardChip.presc = standardPrescaler := rfl

theorem Prescaler.enc_standard (p : Prescaler) :
    p.enc standardPrescaler =
      if p.value = 4 then 0b01 else if p.value = 16 then 0b10 else if p.value = 64 then 0b11 else 0b00 := by
  cases p <;> rfl

/-- The rate that is chosen is the rate of the prescaler that is chosen. -/
theorem chooseRate_snd (cfg : Config) (presc : Byte) (scl : BitVec 16) :
    (chooseRate cfg presc scl).2 =
      bitrate cfg ((scl.toNat : Int) * 1000) (chooseRate cfg presc scl).1.value := by
  unfold chooseRate
  dsimp only
  split <;> rfl

/-- The fall-back to prescaler 1 below `BR_MIN`. -/
theorem chooseRate_value (cfg : Config) (presc : Byte) (scl : BitVec 16) :
    (chooseRate cfg presc scl).1.value =
      if bitrate cfg ((scl.toNat : Int) * 1000) (Prescaler.ofRequest presc).value < cfg.brMin then 1
      else (Prescaler.ofRequest presc).value := by
  unfold chooseRate
  dsimp only
  split <;> rfl

section
variable {cfg : Config} {d : Device} {presc : Byte} {scl : BitVec 16}

/-- Line 1 of `configure_master` once the rate is chosen. -/
theorem configureMasterLine1_of_rate (hr : d.role ≠ .slave) (hs : d.ctrl.sto = false) (hscl : scl ≠ 0) :
    configureMasterLine1 cfg presc scl d =
      if (chooseRate cfg presc scl).2 < 0 ∨ (chooseRate cfg presc scl).2 > 255 then
        .refuse .bitRateOutOfRange
      else .done (d.goto (.configureMaster2 ((chooseRate cfg presc scl).1.enc cfg.chip.presc)
        (BitVec.ofInt 8 (chooseRate cfg presc scl).2))) := by
  simp only [configureMasterLine1, hr, hs, hscl, if_false, Bool.false_eq_true]

/-- The device after the last line of a configure: the word's enables, and the role. Switched on by
it, the device is off the bus (R142). -/
abbrev Device.configured (d : Device) (ea ie : Bool) (r : Role) : Device :=
  { d with
    ctrl := { d.ctrl with ea := ea, sta := false, en := true, ie := ie }
    phase := if d.ctrl.en then d.phase else .noInfo
    pend := if d.ctrl.en then d.pend else .none
    role := r, stage := .idle }

variable (hC : cfg.chip = standardChip) (hs : d.ctrl.sto = false)
include hC hs

/-- The last line of a configure is a `CONFIG` word that switches on (R142), then the role. -/
theorem configWord_then_role (ea ie : Bool) (r : Role) :
    (ctrlWrite cfg (ctrlWord standardCtrl false ea false false false true ie) d).map
      (fun d => ({ d with role := r }).goto .idle) = .done (d.configured ea ie r) := by
  rw [ctrlWrite_configWord hC ea true ie hs, configCmd_on _ rfl]
  rfl

theorem runStage_configureMaster4 (hst : d.stage = .configureMaster4) :
    runStage cfg d = .done (d.configured false false .master) := by
  simp only [runStage, hst, hC]
  exact configWord_then_role hC hs false false .master

theorem runStage_configureSlave3 (hst : d.stage = .configureSlave3) :
    runStage cfg d = .done (d.configured true true .slave) := by
  simp only [runStage, hst, hC]
  exact configWord_then_role hC hs true true .slave

end

/-- Settles O20: line 1 by its refusals and the rate of the chosen prescaler; then `PS`, `BR` and a
`CONFIG` word. -/
theorem configureMasterChoosesTheBitRateAndProgramsTheRegisters :
    Obligations.ConfigureMasterChoosesTheBitRateAndProgramsTheRegisters := by
  refine ⟨fun s d presc scl hC hd hw hidle => ?_, fun s k d ps br hC hd hh hs hst => ?_⟩
  · intro refusedWith hz rate asked p ps
    refine ⟨fun hr => ?_, fun hr hb => ?_⟩
    · exact exec_of_contextCheck hd (by rw [hw]; simp [contextCheck, hr]) rfl
    have hc := contextCheck_configureMaster hidle hr hb
    let d1 := d.goto (.configureMaster1 presc scl)
    have hrun : runStage s.cfg d1 = configureMasterLine1 s.cfg presc scl d1 := rfl
    have hrefuse : ∀ {r}, configureMasterLine1 s.cfg presc scl d1 = .refuse r → refusedWith r :=
      fun h => exec_of_line1_refuse (.configureMaster presc scl) hd hw hc (hrun.trans h)
    refine ⟨fun hs => hrefuse ?_, fun hs => ⟨fun hscl => hrefuse ?_, fun hscl => ?_⟩⟩
    · simp [configureMasterLine1, d1, hr, hs]
    · simp [configureMasterLine1, d1, hr, hs, hscl]
    have hrate : ∀ q, bitrate s.cfg hz q = rate q := bitrate_standard s.cfg hC hz
    have hp : (chooseRate s.cfg presc scl).1.value = p := by
      rw [chooseRate_value, Prescaler.value_ofRequest]
      exact if_congr (by rw [← hrate]) rfl rfl
    have hline := configureMasterLine1_of_rate (cfg := s.cfg) (d := d1) (presc := presc) hr hs hscl
    rw [chooseRate_snd, hp, hrate, hC, standardChip_presc, Prescaler.enc_standard, hp] at hline
    refine ⟨fun hr => hrefuse (hline.trans (if_pos hr)), fun h0 h1 => ?_⟩
    rw [exec_of_line1 (.configureMaster presc scl) hd hw hc,
      issueLine1_done (hrun.trans (hline.trans (if_neg (by omega))))]
    rfl
  · let d3 : Device := { d with ps := ps, stage := .configureMaster3 br }
    let d4 : Device := { d with ps := ps, br := br, stage := .configureMaster4 }
    have hline2 : runStage s.cfg d = .done d3 := by
      simp only [runStage, hst, writeStat, psOf_placePs]
      rfl
    have hline3 : runStage s.cfg d3 = .done d4 := rfl
    have hline4 := runStage_configureMaster4 (d := d4) hC hs rfl
    rw [runTurns_cons_next (stepTurn_engine_done hd hh hline2), runTurns_engine (d := d3) hd hh hline3,
      runTurns_engine (d := d4) hd hh hline4, runTurns_nil]

/-- Settles O21: line 1 by its refusals; then `OADR` and a `CONFIG` word. -/
theorem configureSlaveProgramsTheRegisters : Obligations.ConfigureSlaveProgramsTheRegisters := by
  intro s d addr hC hd hw hidle refusedWith
  refine ⟨fun hr => ?_, fun hr hb => ?_⟩
  · exact exec_of_contextCheck hd (by rw [hw, contextCheck_master hr, if_neg (by decide)]) rfl
  have hc := contextCheck_configureSlave hidle hr hb
  let d1 := d.goto (.configureSlave1 addr)
  have hrun : runStage s.cfg d1 = configureSlaveLine1 addr d1 := rfl
  have hrefuse : ∀ {r}, configureSlaveLine1 addr d1 = .refuse r → refusedWith r :=
    fun h => exec_of_line1_refuse (.configureSlave addr) hd hw hc (hrun.trans h)
  refine ⟨fun ha => hrefuse ?_, fun ha hs => hrefuse ?_, fun ha hs => ⟨?_, fun hh => ?_⟩⟩
  · simp [configureSlaveLine1, d1, hr, ha]
  · simpa [configureSlaveLine1, d1, hr, hs] using ha
  · have hline : configureSlaveLine1 addr d1 = .done (d1.goto (.configureSlave2 addr)) := by
      simpa [configureSlaveLine1, d1, hr, hs] using ha
    rw [exec_of_line1 (.configureSlave addr) hd hw hc, issueLine1_done (hrun.trans hline)]
    rfl
  · let d2 : Device := { d with stage := .configureSlave2 addr }
    let d3 : Device := { d with oadr := oadr8 standardOadr addr, stage := .configureSlave3 }
    have hline2 : runStage s.cfg d2 = .done d3 := by
      show Eff.done ((writeOadr (oadr8 s.cfg.chip.oadr addr) d2).goto .configureSlave3) = _
      rw [hC]
      rfl
    have hline3 := runStage_configureSlave3 (d := d3) hC hs rfl
    rw [State.setCur_eq_after hw, State.setCur_eq_after hw, runTurns_engine (d := d2) hd hh hline2,
      runTurns_engine (d := d3) hd hh hline3, runTurns_nil]
    rfl

end Sys2Proof.Machine

namespace Sys2Proof.Machine

/-! ### `write_byte` and `read_byte` from issue to return (R205, R206) -/

section
variable {O : OadrLayout} {d : Device} {code : Status} {b : Byte}

/-- A completion with a code of the relation (R150). -/
theorem xcvrStep_of_memCodes {cs : List Status} (hh : d.halted .xcvr = false)
    (hc : completionEnabled d = true) (hcs : completionCodes O d = some cs) (hmem : code ∈ cs) :
    xcvrStep O code b d =
      ({ d with data := if completionDrawsData d then b else d.data } : Device).event code := by
  rw [xcvrStep_of_completion hh hc, hcs, (drawn_some cs _).1 hmem, complete_eq]

/-- The codes that answer a byte sent with `EA = 0` (R152, R153, R160). -/
theorem completionCodes_sent {t : Byte} (hp : d.pend = .byte) (hea : d.ctrl.ea = false)
    (ht : d.txbyte = some t) (h : d.phase.isAddr = true ∨ d.phase.isMt = true) :
    completionCodes O d = some ((if d.phase.isMt then [Status.mtDataAck, Status.mtDataNack]
      else if t.getLsbD 0 then [Status.mrSlaAck, Status.mrSlaNack]
      else [Status.mtSlaAck, Status.mtSlaNack]) ++ [Status.arbLost, Status.busError]) := by
  cases hmt : d.phase.isMt with
  | true => rw [completionCodes_mt hp hmt, hea]; rfl
  | false =>
    rw [completionCodes_addr hp (h.resolve_right (by simp [hmt])) ht, hea, List.append_assoc]
    rfl

/-- A code that answers a receive (R154, R160), in the order of the statement. -/
theorem mem_received {a g : Bool}
    (h : code ∈ [if a then Status.mrDataAck else Status.mrDataNack, Status.arbLost, Status.busError] ++
      (if a then [Status.srArbLostSlaAck, Status.stArbLostSlaAck] else []) ++
      (if a && g then [Status.srArbLostGcallAck] else [])) :
    code ∈ [if a then Status.mrDataAck else Status.mrDataNack] ++ arbCodes a g ++ [Status.busError] := by
  revert code
  cases a <;> cases g <;> decide

end

section
variable {s : State} {k : Nat} {d e : Device} {who : Issuer} (hC : s.standard)
  (hd : s.devs[k]? = some e) (hh : d.halted .engine = false) (hi : d.ctrl.int = true)
include hC hd hh hi

/-- The event is there: `write_byte` returns its code. -/
theorem runTurns_writeByte_returns (hst : d.stage = .writeByte3) :
    runTurns [.engine k, .engine k] (s.after k who d) =
      .next (s.after k .host { d with ret := .code d.phase.code, stage := .idle }) := by
  have hline3 := (runStage_of_hold (cfg := s.cfg) (nxt := .writeByte4) hst (by decide)).trans (hold_of_int hi)
  let d4 := d.goto .writeByte4
  have hline4 := runStage_writeByte4 (cfg := s.cfg) (d := d4) rfl
  rw [hC, statusCode_standard, if_pos (show d4.ctrl.int = true from hi)] at hline4
  rw [runTurns_engine hd hh hline3, runTurns_engine (d := d4) hd hh hline4, runTurns_nil]
  rfl

/-- The event is there: `read_byte` returns the byte and the code. -/
theorem runTurns_readByte_returns (hst : d.stage = .readByte2) :
    runTurns [.engine k, .engine k, .engine k] (s.after k who d) =
      .next (s.after k .host { d with ret := .byteCode d.data d.phase.code, stage := .idle }) := by
  have hline2 := (runStage_of_hold (cfg := s.cfg) (nxt := .readByte3) hst (by decide)).trans (hold_of_int hi)
  let d3 := d.goto .readByte3
  let d4 := d.goto (.readByte4 d.phase.code)
  have hline3 : runStage s.cfg d3 = .done d4 := by
    rw [runStage_readByte3 rfl, hC, statusCode_standard, if_pos (show d3.ctrl.int = true from hi)]
    rfl
  have hline4 := runStage_readByte4 (cfg := s.cfg) (d := d4) rfl
  rw [readData_of_int d4 hi] at hline4
  rw [runTurns_engine hd hh hline2, runTurns_engine (d := d3) hd hh hline3,
    runTurns_engine (d := d4) hd hh hline4, runTurns_nil]
  rfl

end

/-- Settles O24: line 1 writes `DATA`; the word 0x84 sends it, and every answer of the relation is an event that
the two last lines return. -/
theorem writeByteSendsAndReturnsTheCode : Obligations.WriteByteSendsAndReturnsTheCode := by
  intro s d v b hC h
  obtain ⟨hd, hw, -, -⟩ := id h
  have hx := exec_of_masterIssues h (.writeByte v) (by decide)
  have hline1 : runStage s.cfg (d.goto (.writeByte1 v)) =
      .done ((writeData v (d.goto (.writeByte1 v))).goto .writeByte2) := rfl
  rw [issueLine1_done hline1] at hx
  refine ⟨fun hi => ?_, fun hi => ?_, fun hb hh hxh hi hp code hmem => ?_⟩
  · rw [hx, writeData_goto, writeData_of_int v d hi]
    rfl
  · rw [hx, writeData_goto, writeData_of_busy v d hi]
    rfl
  let d2 : Device := { d with data := v, ctrl := { d.ctrl with wc := false }, stage := .writeByte2 }
  let d3 : Device := { d2.commanded false false false false with
    txbyte := some v, pend := .byte, stage := .writeByte3 }
  have hword : ctrlWrite s.cfg 0x84 d2 = _ :=
    ctrlWrite_continueWord hC (d := d2) (d2.busy_of_int hi) false false
  have hline2 : runStage s.cfg d2 = .done d3 :=
    (runStage_of_go (st := .writeByte2) hC rfl (by decide)).trans
      (ctrlThen_done (hword.trans (continueCmd_of_transmit (d := d2) hi hp)))
  have hc : completionEnabled d3 = true := by
    rcases hp with hp | hp <;> simp [completionEnabled, d3, d2, hp]
  have hdraw : completionDrawsData d3 = false := by
    have hno : d.phase.isMr = false ∧ d.phase ≠ .busError := by
      revert hp; cases d.phase <;> decide
    simp [completionDrawsData, d3, d2, hno]
  have hxcvr := xcvrStep_of_memCodes (O := s.cfg.chip.oadr) (b := b) (d := d3) hxh hc
    (completionCodes_sent rfl rfl rfl hp) hmem
  rw [hdraw] at hxcvr
  rw [State.setCur_eq_after hw, State.setCur_eq_after hw, runTurns_engine (d := d2) hd hh hline2,
    runTurns_xcvr hd hb, hxcvr]
  exact runTurns_writeByte_returns hC hd hh rfl rfl

/-- Settles O25: line 1 is a `CONTINUE` word; in a receiver's phase every answer of the relation is an event
with a byte that the last lines return. -/
theorem readByteReturnsByteAndCode : Obligations.ReadByteReturnsByteAndCode := by
  intro s d a b hC h
  obtain ⟨hd, hw, -, -⟩ := id h
  obtain ⟨hdone, hfault⟩ := exec_of_go hC h (.readByte a) (by decide)
    (show (.readByte1 a, if a then 0xC4 else 0x84, .readByte2) ∈ goStages by cases a <;> decide)
  let d0 := d.goto (.readByte1 a)
  have hword : d.busy = false → ctrlWrite s.cfg (if a then 0xC4 else 0x84) d0 =
      continueCmd d0 (d0.commanded a false false false) := by
    intro hb
    rw [← ctrlWrite_continueWord hC (d := d0) hb a false]
    cases a <;> rfl
  refine ⟨hdone, fun hi hb => hfault _ ((hword hb).trans (continueCmd_of_noEvent hi)), fun hi hp =>
    hfault _ ((hword (d.busy_of_int hi)).trans (continueCmd_of_lastByte hi hp)), fun hi hp => ?_⟩
  intro d1
  refine ⟨hdone _ ((hword (d.busy_of_int hi)).trans (continueCmd_of_receive hi (.inl hp))),
    fun hb hh hxh code hmem => ?_⟩
  have hc : completionEnabled d1 = true := by simp [completionEnabled, d1, hp]
  have hdraw : completionDrawsData d1 = true := by simp [completionDrawsData, d1, hp]
  have hgce : d1.gce s.cfg.chip.oadr = d.oadr.getLsbD 0 := by rw [hC]; rfl
  have hcs := completionCodes_mr (O := s.cfg.chip.oadr) (d := d1) rfl hp rfl
  rw [hgce] at hcs
  have hxcvr := xcvrStep_of_memCodes (b := b) (d := d1) hxh hc hcs (mem_received hmem)
  rw [hdraw] at hxcvr
  rw [State.setCur_eq_after hw, State.setCur_eq_after hw, runTurns_xcvr hd hb, hxcvr]
  exact runTurns_readByte_returns hC hd hh rfl rfl

end Sys2Proof.Machine

namespace Sys2Proof.Machine

/-! ### The three command words of a transaction (R94, R246, R247) -/

/-- The device after a start word that finds no stop pending (R143). -/
def Device.startStep (d : Device) : Device :=
  (d.commanded false true false false).setPend .start

/-- The device after a byte word in a phase a master can have (R144). -/
def Device.byteStep (d : Device) : Device :=
  { d.commanded false false false false with
    txbyte := if d.phase.isAddr || d.phase.isMt then some d.data else d.txbyte
    ack := if d.phase.isMr then some false else d.ack
    pend := .byte }

/-- The device after a stop word that finds no stop pending (R146, R147). -/
def Device.stopStep (d : Device) : Device :=
  if d.phase.isOwner then (d.commanded false false true false).setPend .stop
  else (d.commanded false false false false).unaddressed

/-- The phases in which a byte word of a master's operation is written (R246, R247). -/
def Status.takesByte (p : Status) : Bool := p.isAddr || p.isMt || p.isMr || p == .busError

section
variable {d : Device}

@[simp] theorem startStep_phase : d.startStep.phase = d.phase := rfl
@[simp] theorem startStep_pend : d.startStep.pend = .start := rfl

theorem startStep_sameEngine (d : Device) : d.SameEngine d.startStep := ⟨rfl, rfl, rfl, rfl⟩

theorem byteStep_sameEngine (d : Device) : d.SameEngine d.byteStep := ⟨rfl, rfl, rfl, rfl⟩

theorem stopStep_sameEngine (d : Device) : d.SameEngine d.stopStep :=
  .ite ⟨rfl, rfl, rfl, rfl⟩ ⟨rfl, rfl, rfl, rfl⟩

variable {cfg : Config} (hC : cfg.chip = standardChip)
include hC

theorem ctrlWrite_startStep (hb : d.busy = false) (hp : d.pend.isStop = false) :
    ctrlWrite cfg 0xA4 d = .done d.startStep := by
  rw [show (0xA4 : Byte) = _ from start_word, ctrlWrite_startWord hC hb]
  exact startCmd_of_noStop hp

theorem ctrlWrite_byteStep (hi : d.ctrl.int = true) (hp : d.phase.takesByte = true) :
    ctrlWrite cfg 0x84 d = .done d.byteStep := by
  let w := d.commanded false false false false
  have hw : ctrlWrite cfg 0x84 d = continueCmd d w :=
    ctrlWrite_continueWord hC (d.busy_of_int hi) false false
  rw [hw, Device.byteStep]
  simp only [Status.takesByte, Bool.or_eq_true, beq_iff_eq, or_assoc] at hp
  obtain hp | hp | hp | hp := hp
  · have hno : d.phase.isMr = false := by revert hp; cases d.phase <;> decide
    rw [continueCmd_of_transmit (w := w) hi (.inl hp)]
    simp [w, hp, hno]
  · have hno : d.phase.isMr = false := by revert hp; cases d.phase <;> decide
    rw [continueCmd_of_transmit (w := w) hi (.inr hp)]
    simp [w, hp, hno]
  · have hno : d.phase.isAddr = false ∧ d.phase.isMt = false := by revert hp; cases d.phase <;> decide
    rw [continueCmd_of_receive (w := w) hi (.inl hp)]
    simp [w, hp, hno]
  · rw [continueCmd_of_busError (w := w) hi hp, hp]
    rfl

theorem ctrlWrite_stopStep (hb : d.busy = false) (hp : d.pend.isStop = false) :
    ctrlWrite cfg 0x94 d = .done d.stopStep := by
  have hw : ctrlWrite cfg 0x94 d = .done (stopCmd (d.commanded false false true false)) :=
    ctrlWrite_stopWord hC hb false false
  rw [hw, stopCmd_of_noStop (w := d.commanded false false true false) hp]
  rfl

end

/-! ### The stages of a transaction beside its go stages and its holds (R246, R247) -/

/-- The `_test` stages that read the code alone: the stage, its accept set and its two successors (R241). -/
def testStages : List (Stage × List Status × Stage × Stage) :=
  [(.wcAddrTest, accWcAddr, .wcDataLoad, .wcAbort), (.wcDataTest, accWcData, .wcFinish, .wcAbort),
   (.rrAddrTest, accRrAddr, .rrReadGo, .rrAbort)]

/-- A `_load` stage with the byte it writes and its successor. -/
inductive LoadsByte (d : Device) : Byte → Stage → Prop
  | wcAddress (a : Addr) (hst : d.stage = .wcAddrLoad) (ha : d.eng.addr = some a) :
      LoadsByte d (sla8 a false) .wcAddrGo
  | rrAddress (a : Addr) (hst : d.stage = .rrAddrLoad) (ha : d.eng.addr = some a) :
      LoadsByte d (sla8 a true) .rrAddrGo
  | command (c : Byte) (hst : d.stage = .wcDataLoad) (hc : d.eng.cmd = some c) :
      LoadsByte d c .wcDataGo

/-- A stage that ends a transaction, with the outcome it sets. -/
inductive EndsWithOutcome (cfg : Config) (d : Device) : EngOutcome → Prop
  | wcFinish (hst : d.stage = .wcFinish) : EndsWithOutcome cfg d .success
  | rrFinish (b : Byte) (hst : d.stage = .rrFinish) (hb : d.eng.byte = some b) :
      EndsWithOutcome cfg d (.successByte b)
  | abort (c : Byte) (hst : d.stage = .wcAbort ∨ d.stage = .rrAbort) (hc : d.eng.code = some c) :
      EndsWithOutcome cfg d (classify cfg.chip.status c)

section
variable {cfg : Config} {d : Device}

theorem runStage_of_test {st good bad : Stage} {acc : List Status} (hst : d.stage = st)
    (ht : (st, acc, good, bad) ∈ testStages) : runStage cfg d = testCode cfg.chip acc good bad d := by
  simp only [testStages, List.mem_cons, List.not_mem_nil, or_false, Prod.mk.injEq] at ht
  obtain ⟨rfl, rfl, rfl, rfl⟩ | ⟨rfl, rfl, rfl, rfl⟩ | ⟨rfl, rfl, rfl, rfl⟩ := ht <;>
    simp only [runStage, hst]

theorem runStage_of_readTest (hst : d.stage = .rrReadTest) : runStage cfg d = readTest cfg.chip d := by
  simp only [runStage, hst]

theorem runStage_of_load {v : Byte} {next : Stage} (h : LoadsByte d v next) :
    runStage cfg d = loadThen v next d := by
  cases h with
  | wcAddress a hst ha | rrAddress a hst ha => simp only [runStage, hst, ha, withLatch]
  | command c hst hc => simp only [runStage, hst, hc, withLatch]

theorem runStage_of_end {o : EngOutcome} (h : EndsWithOutcome cfg d o) :
    runStage cfg d = stopWith cfg o d := by
  cases h with
  | wcFinish hst => simp only [runStage, hst]
  | rrFinish b hst hb => simp only [runStage, hst, hb, withLatch]
  | abort c hst hc => obtain hst | hst := hst <;> simp only [runStage, hst, hc, withLatch]

theorem stopWith_eq (hC : cfg.chip = standardChip) (o : EngOutcome) :
    stopWith cfg o d = (ctrlWrite cfg 0x94 d).map fun w =>
      { w with eng := { w.eng with outcome := some o } }.goto .idle := by
  have hword : cfg.chip.words.stop = 0x94 := by rw [hC]; rfl
  rw [stopWith, stopLine, hword]

theorem stopWith_done (hC : cfg.chip = standardChip) {o : EngOutcome} {w : Device}
    (hw : ctrlWrite cfg 0x94 d = .done w) :
    stopWith cfg o d = .done ({ w with eng := { w.eng with outcome := some o } }.goto .idle) := by
  rw [stopWith_eq hC, hw]
  rfl

end

/-! ### A transaction between two turns (R246, R247, R256) -/

/-- Both stages are of one transaction. -/
def Stage.sameTransaction (st st' : Stage) : Bool := st.isWc && st'.isWc || st.isRr && st'.isRr

/-- What a turn makes of a master's transaction: the role and the marks stay, `TransInv` holds again, and the
transaction goes on or has ended with an outcome. -/
structure Device.TransStep (cfg : Config) (d d' : Device) : Prop where
  role : d'.role = d.role
  faults : d'.faults = d.faults
  inv : d'.TransInv cfg
  stage : d.stage.sameTransaction d'.stage = true ∨ d'.stage = .idle ∧ d'.eng.outcome.isSome = true

section
variable {cfg : Config} {d d' : Device}

/-- A turn that leaves the engine where it is. -/
theorem Device.SameEngine.transStep (hs : d.SameEngine d') (hst : d.stage.isWc = true ∨ d.stage.isRr = true)
    (hi : d'.TransInv cfg) : d.TransStep cfg d' :=
  ⟨hs.role, hs.faults, hi, .inl (by rw [hs.stage]; simpa [Stage.sameTransaction] using hst)⟩

/-- The engine goes on to its next stage. -/
theorem Device.SameEngine.transStep_goto {next : Stage} (hs : d.SameEngine d')
    (hn : d.stage.sameTransaction next = true) (hi : (d'.goto next).TransInv cfg) :
    d.TransStep cfg (d'.goto next) :=
  ⟨hs.role, hs.faults, hi, .inl hn⟩

/-! ### The bus moves under a transaction -/

/-- What a step of the transceiver or a joint step does to a master whose latches were written (R150, R156,
R161, R314–R319). -/
inductive Device.BusStep (d : Device) : Device → Prop
  | stay : d.BusStep d
  | event (data : Byte) (code : Status) (hint : d.ctrl.int = false) (hp : d.pend.isStop = false)
      (hstart : d.pend = .start → code.isAddr = true ∨ code = .busError) :
      d.BusStep (({ d with data := data } : Device).event code)
  | stop (hp : d.pend.isStop = true) : d.BusStep (executeStop d)

theorem Device.BusStep.sameEngine (h : d.BusStep d') : d.SameEngine d' := by
  cases h <;> exact ⟨rfl, rfl, rfl, rfl⟩

/-- A draw that is taken is a member of the relation. -/
theorem drawn_busStep {codes : List Status} {code : Status} {data : Byte}
    (h : code ∈ codes → d.BusStep (({ d with data := data } : Device).event code)) :
    d.BusStep (drawn (some codes) code d (({ d with data := data } : Device).event code)) := by
  by_cases hmem : code ∈ codes
  · rw [(drawn_some codes _).1 hmem]
    exact h hmem
  · rw [(drawn_some codes _).2 hmem]
    exact .stay

theorem Device.BusStep.ite {c : Prop} [Decidable c] {d'' : Device} (h : c → d.BusStep d')
    (h' : ¬ c → d.BusStep d'') : d.BusStep (if c then d' else d'') := by
  split
  · exact h ‹_›
  · exact h' ‹_›

theorem xcvrStep_busStep (O : OadrLayout) (code : Status) (b : Byte) (hx : d.XcvrInv) :
    d.BusStep (xcvrStep O code b d) := by
  obtain ⟨⟨cs, hcs⟩, es, hes⟩ := codes_some O hx
  rw [xcvrStep, hcs, hes, complete_eq, slaveEvent_eq]
  refine .ite (fun _ => .stay) fun _ => .ite (fun hc => ?_) fun _ => .ite (fun hs => ?_) fun _ =>
    .ite (fun he => ?_) fun _ => .stay
  · simp only [completionEnabled, Bool.and_eq_true, Bool.or_eq_true, Bool.not_eq_true', beq_iff_eq] at hc
    obtain ⟨⟨-, hint⟩, hpend⟩ := hc
    refine drawn_busStep fun hmem => .event _ _ hint ?_ fun hp => ?_
    · obtain hp | ⟨hp, -⟩ := hpend <;> rw [hp] <;> rfl
    · obtain rfl := Option.some.inj ((completionCodes_start hp).symm.trans hcs)
      revert hmem
      cases d.phase.isOwner <;> cases code <;> decide
  · simp only [stopEnabled, Bool.and_eq_true] at hs
    exact .stop hs.1
  · simp only [slaveEventEnabled, Bool.and_eq_true, Bool.or_eq_true, Bool.not_eq_true', beq_iff_eq] at he
    obtain ⟨⟨⟨-, hint⟩, -⟩, hpend⟩ := he
    refine drawn_busStep fun _ => .event _ _ hint ?_ fun hp => ?_
    · obtain ⟨hp, -⟩ | ⟨hp, -⟩ := hpend <;> rw [hp] <;> rfl
    · simp [hp] at hpend

theorem JointMaster.busStep (hint : d.ctrl.int = false) (h : JointMaster d d') : d.BusStep d' := by
  have hevent : ∀ {data : Byte} {code : Status}, d.pend = .byte →
      d.BusStep (({ d with data := data } : Device).event code) := fun hp =>
    .event _ _ hint (by rw [hp]; rfl) fun hp' => by rw [hp] at hp'; cases hp'
  cases h with
  | start hp | repStart hp => exact .event d.data _ hint (by rw [hp]; rfl) fun _ => .inl rfl
  | address t acked hp | transmit acked hp => exact hevent (data := d.data) hp
  | receive b a hp => exact hevent hp
  | stop hp => exact .stop hp

/-- An event ends the wait of a transaction; a stop is executed before its start only. -/
theorem Device.BusStep.transInv (hx : d.XcvrInv) (h : d.TransInv cfg) (hb : d.BusStep d') :
    d'.TransInv cfg := by
  cases hb with
  | stay => exact h
  | event data code hint hp hstart =>
    unfold Device.TransInv at h ⊢
    simp only [Device.event_stage]
    cases hst : d.stage <;> simp only [hst, hint, Bool.false_eq_true, false_and, false_or, true_and] at h ⊢
    case wcStartGo | rrStartGo => exact ⟨Device.busy_of_int _ rfl, nofun, nofun⟩
    case wcStartWait | rrStartWait =>
      obtain ⟨-, hs | hs⟩ := h
      · exact .inl ⟨rfl, hstart hs⟩
      · rw [hs] at hp
        cases hp
    case wcAddrWait | rrAddrWait | wcDataWait | rrReadWait => exact .inl rfl
  | stop hp =>
    obtain ⟨-, hevent, -⟩ := hx
    have hint : d.ctrl.int = false := by
      by_contra hi
      rw [(hevent (by simpa using hi)).1] at hp
      cases hp
    have hstage : (executeStop d).stage = d.stage := rfl
    unfold Device.TransInv at h ⊢
    rw [hstage]
    cases hst : d.stage <;> simp only [hst, hint, Bool.false_eq_true, false_and, false_or, true_and] at h ⊢
    case wcStartGo | rrStartGo =>
      have hq : d.pend = .stop := ((Pend.isStop_iff _).mp hp).resolve_right h.2.1
      simp [executeStop, Device.busy, hq, Pend.afterStop]
    case wcStartWait | rrStartWait =>
      obtain ⟨hen, hs | hs⟩ := h
      · rw [hs] at hp
        cases hp
      · exact .inr ⟨hint, hen, .inl (by rw [executeStop, hs]; rfl)⟩
    case wcAddrWait | rrAddrWait | wcDataWait | rrReadWait =>
      obtain ⟨-, hs, -⟩ := h
      rw [hs] at hp
      cases hp

/-! ### The engine moves in a transaction -/

/-- A `_go` stage of a start: the start is pending at once or, if a stop was, after it (R143). -/
theorem ctrlWrite_start_of_transInv (hC : cfg.chip = standardChip)
    (h : d.busy = false ∧ d.pend ≠ .stopThenStart ∧ (d.pend = .stop → cfg.overlap = .serialise)) :
    ∃ x, ctrlWrite cfg 0xA4 d = .done x ∧ d.SameEngine x ∧ x.ctrl.int = false ∧ x.ctrl.en = true ∧
      (x.pend = .start ∨ x.pend = .stopThenStart) := by
  obtain ⟨hb, hno, hover⟩ := h
  by_cases hp : d.pend = .stop
  · have hw : ctrlWrite cfg 0xA4 d = startCmd cfg d (d.commanded false true false false) :=
      ctrlWrite_startWord hC hb false false
    rw [startCmd_serialise (d := d) (w := d.commanded false true false false) (by simp [hp, Pend.isStop])
      (hover hp)] at hw
    exact ⟨_, hw, ⟨rfl, rfl, rfl, rfl⟩, rfl, rfl, .inr rfl⟩
  · exact ⟨_, ctrlWrite_startStep hC hb (Pend.isStop_eq_false hp hno), startStep_sameEngine d, rfl, rfl,
      .inl rfl⟩

/-- With the spec's numbers a test accepts the codes by name (R241, R248). -/
theorem testCode_of_int (hC : cfg.chip = standardChip) (hi : d.ctrl.int = true) (acc : List Status)
    (good bad : Stage) :
    testCode cfg.chip acc good bad d = .done ({ d with eng := { d.eng with code := some d.phase.code } }.goto
      (if d.phase ∈ acc then good else bad)) := by
  have hcode : d.statusCode standardChip = d.phase.code := by rw [statusCode_standard, if_pos hi]
  simp only [testCode, hC, hcode, standardChip_status, isOneOf_code, List.contains_iff_mem]

theorem readTest_of_int (hC : cfg.chip = standardChip) (hi : d.ctrl.int = true) :
    readTest cfg.chip d =
      .done ({ d with eng := { d.eng with code := some d.phase.code, byte := some d.data } }.goto
        (if d.phase ∈ accRrRead then .rrFinish else .rrAbort)) := by
  have hcode : d.statusCode standardChip = d.phase.code := by rw [statusCode_standard, if_pos hi]
  simp only [readTest, hC, hcode, readData_of_int d hi, standardChip_status, isOneOf_code,
    List.contains_iff_mem]

/-- The stage is done, and a transaction after it is as `TransStep` says. -/
def Device.Advances (cfg : Config) (d : Device) : Prop :=
  ∃ d', runStage cfg d = .done d' ∧ d.TransStep cfg d'

section
variable {st nxt : Stage} (hst : d.stage = st) (hn : st.sameTransaction nxt = true)
include hst hn

theorem advances_of_start (hC : cfg.chip = standardChip) (hg : (st, 0xA4, nxt) ∈ goStages)
    (h : d.busy = false ∧ d.pend ≠ .stopThenStart ∧ (d.pend = .stop → cfg.overlap = .serialise))
    (hi : ∀ x : Device, x.ctrl.int = false → x.ctrl.en = true →
      (x.pend = .start ∨ x.pend = .stopThenStart) → (x.goto nxt).TransInv cfg) : d.Advances cfg := by
  obtain ⟨x, hw, hs, hint, hen, hp⟩ := ctrlWrite_start_of_transInv hC h
  exact ⟨_, (runStage_of_go hC hst hg).trans (ctrlThen_done hw),
    hs.transStep_goto (hst ▸ hn) (hi x hint hen hp)⟩

theorem advances_of_byte (hC : cfg.chip = standardChip) (hg : (st, 0x84, nxt) ∈ goStages)
    (hint : d.ctrl.int = true) (hp : d.phase.takesByte = true) (hi : (d.byteStep.goto nxt).TransInv cfg) :
    d.Advances cfg :=
  ⟨_, (runStage_of_go hC hst hg).trans (ctrlThen_done (ctrlWrite_byteStep hC hint hp)),
    (byteStep_sameEngine d).transStep_goto (hst ▸ hn) hi⟩

theorem advances_of_hold (hh : (st, nxt) ∈ holdStages) (hw : st.isWc = true ∨ st.isRr = true)
    (h : d.TransInv cfg) (hi : d.ctrl.int = true → (d.goto nxt).TransInv cfg) : d.Advances cfg := by
  have hs := Device.SameEngine.refl d
  unfold Device.Advances
  rw [runStage_of_hold hst hh]
  cases hint : d.ctrl.int with
  | true => exact ⟨_, hold_of_int hint, hs.transStep_goto (hst ▸ hn) (hi hint)⟩
  | false => exact ⟨d, hold_of_busy hint, hs.transStep (hst ▸ hw) h⟩

theorem advances_of_load {v : Byte} (hl : LoadsByte d v nxt) (hint : d.ctrl.int = true)
    (hi : ∀ x : Device, x.ctrl.int = true → x.phase = d.phase → (x.goto nxt).TransInv cfg) :
    d.Advances cfg := by
  have hload : runStage cfg d = .done ((writeData v d).goto nxt) := runStage_of_load hl
  rw [writeData_of_int v d hint] at hload
  exact ⟨_, hload, Device.SameEngine.transStep_goto ⟨rfl, rfl, rfl, rfl⟩ (hst ▸ hn) (hi _ hint rfl)⟩

omit hn in
theorem advances_of_test (hC : cfg.chip = standardChip) (hint : d.ctrl.int = true) {acc : List Status}
    {good bad : Stage} (ht : (st, acc, good, bad) ∈ testStages) (hg : st.sameTransaction good = true)
    (hb : st.sameTransaction bad = true)
    (hgood : ∀ x : Device, x.ctrl.int = true → x.phase ∈ acc → (x.goto good).TransInv cfg)
    (hbad : ∀ x : Device, x.ctrl.int = true → (x.goto bad).TransInv cfg) : d.Advances cfg := by
  refine ⟨_, (runStage_of_test hst ht).trans (testCode_of_int hC hint acc good bad), ?_⟩
  split
  · exact ⟨rfl, rfl, hgood _ hint ‹_›, .inl (hst ▸ hg)⟩
  · exact ⟨rfl, rfl, hbad _ hint, .inl (hst ▸ hb)⟩

end

/-- A stage that ends a transaction does so with its outcome. -/
theorem EndsWithOutcome.advances (hC : cfg.chip = standardChip) (hi : d.ctrl.int = true)
    (hp : d.pend.isStop = false) {o : EngOutcome} (h : EndsWithOutcome cfg d o) : d.Advances cfg :=
  have hs := stopStep_sameEngine d
  ⟨_, (runStage_of_end h).trans (stopWith_done hC (ctrlWrite_stopStep hC (d.busy_of_int hi) hp)),
    hs.role, hs.faults, trivial, .inr ⟨rfl, rfl⟩⟩

/-- A stage of a transaction (R246, R247): no control write of it is reserved or faults, and no latch it reads
is unwritten. -/
theorem runStage_advances (hC : cfg.chip = standardChip) (hx : d.XcvrInv) (hl : d.LatchInv)
    (htrans : d.stage.isWc = true ∨ d.stage.isRr = true) (h : d.TransInv cfg) : d.Advances cfg := by
  obtain ⟨-, hevent, -⟩ := hx
  obtain ⟨hwc, hrr, hcode, hbyte⟩ := hl
  have hnostop : d.ctrl.int = true → d.pend.isStop = false := fun hi => by rw [(hevent hi).1]; rfl
  have haddress : d.phase.isAddr = true ∨ d.phase = .busError → d.phase.takesByte = true := by
    cases d.phase <;> decide
  have hinv := h
  unfold Device.TransInv at h
  cases hst : d.stage <;> simp only [hst] at h htrans
  case wcStartGo =>
    exact advances_of_start (nxt := .wcStartWait) hst rfl hC (by decide) h fun x hi he hp => .inr ⟨hi, he, hp⟩
  case rrStartGo =>
    exact advances_of_start (nxt := .rrStartWait) hst rfl hC (by decide) h fun x hi he hp => .inr ⟨hi, he, hp⟩
  case wcStartWait =>
    exact advances_of_hold (nxt := .wcAddrLoad) hst rfl (by decide) htrans hinv fun hi =>
      h.resolve_right (by simp [hi])
  case rrStartWait =>
    exact advances_of_hold (nxt := .rrAddrLoad) hst rfl (by decide) htrans hinv fun hi =>
      h.resolve_right (by simp [hi])
  case wcAddrLoad =>
    obtain ⟨a, ha⟩ := Option.isSome_iff_exists.mp (hwc (by rw [hst]; rfl)).1
    exact advances_of_load hst rfl (.wcAddress a hst ha) h.1 fun x hi hp => ⟨hi, hp ▸ h.2⟩
  case rrAddrLoad =>
    obtain ⟨a, ha⟩ := Option.isSome_iff_exists.mp (hrr (by rw [hst]; rfl))
    exact advances_of_load hst rfl (.rrAddress a hst ha) h.1 fun x hi hp => ⟨hi, hp ▸ h.2⟩
  case wcDataLoad =>
    obtain ⟨c, hc⟩ := Option.isSome_iff_exists.mp (hwc (by rw [hst]; rfl)).2
    exact advances_of_load hst rfl (.command c hst hc) h.1 fun x hi hp => ⟨hi, hp.trans h.2⟩
  case wcAddrGo =>
    obtain ⟨hi, hp⟩ := h
    exact advances_of_byte (nxt := .wcAddrWait) hst rfl hC (by decide) hi (haddress hp)
      (.inr ⟨rfl, rfl, rfl, hp⟩)
  case rrAddrGo =>
    obtain ⟨hi, hp⟩ := h
    exact advances_of_byte (nxt := .rrAddrWait) hst rfl hC (by decide) hi (haddress hp)
      (.inr ⟨rfl, rfl, rfl, hp⟩)
  case wcDataGo =>
    obtain ⟨hi, hp⟩ := h
    exact advances_of_byte (nxt := .wcDataWait) hst rfl hC (by decide) hi (by rw [hp]; rfl)
      (.inr ⟨rfl, rfl, rfl, hp⟩)
  case rrReadGo =>
    obtain ⟨hi, hp⟩ := h
    exact advances_of_byte (nxt := .rrReadWait) hst rfl hC (by decide) hi (by rw [hp]; rfl)
      (.inr ⟨rfl, rfl, rfl, hp⟩)
  case wcAddrWait => exact advances_of_hold (nxt := .wcAddrTest) hst rfl (by decide) htrans hinv id
  case rrAddrWait => exact advances_of_hold (nxt := .rrAddrTest) hst rfl (by decide) htrans hinv id
  case wcDataWait => exact advances_of_hold (nxt := .wcDataTest) hst rfl (by decide) htrans hinv id
  case rrReadWait => exact advances_of_hold (nxt := .rrReadTest) hst rfl (by decide) htrans hinv id
  case wcAddrTest =>
    exact advances_of_test hst hC h (.head _) rfl rfl (fun x hi hp => ⟨hi, by simpa [accWcAddr] using hp⟩)
      fun x hi => hi
  case wcDataTest =>
    exact advances_of_test hst hC h (.tail _ (.head _)) rfl rfl (fun x hi _ => hi) fun x hi => hi
  case rrAddrTest =>
    exact advances_of_test hst hC h (.tail _ (.tail _ (.head _))) rfl rfl
      (fun x hi hp => ⟨hi, by simpa [accRrAddr] using hp⟩) fun x hi => hi
  case rrReadTest =>
    refine ⟨_, (runStage_of_readTest hst).trans (readTest_of_int hC h), ?_⟩
    split <;> exact ⟨rfl, rfl, h, .inl (by rw [hst]; rfl)⟩
  case wcFinish => exact (EndsWithOutcome.wcFinish hst).advances hC h (hnostop h)
  case rrFinish =>
    obtain ⟨b, hb⟩ := Option.isSome_iff_exists.mp (hbyte hst)
    exact (EndsWithOutcome.rrFinish b hst hb).advances hC h (hnostop h)
  case wcAbort =>
    obtain ⟨c, hc⟩ := Option.isSome_iff_exists.mp (hcode (.inl hst))
    exact (EndsWithOutcome.abort c (.inl hst) hc).advances hC h (hnostop h)
  case rrAbort =>
    obtain ⟨c, hc⟩ := Option.isSome_iff_exists.mp (hcode (.inr hst))
    exact (EndsWithOutcome.abort c (.inr hst) hc).advances hC h (hnostop h)
  all_goals simp [Stage.isWc, Stage.isRr] at htrans

end

/-! ### Every turn (R345, R346) -/

section
variable {s : State} {k : Nat} {d d' : Device} {t : Turn}

/-- In the middle of an operation a host's operation is refused (R215.4), and a master's handler issues
none. -/
theorem OpMove.refused_of_inFlight {cfg : Config} {who : Issuer} {i : Instr} (hr : d.role = .master)
    (hst : d.stage ≠ .idle) (h : OpMove cfg k who i d d') : ∃ r, d' = d.refuse r := by
  cases h with
  | refused r => exact ⟨r, rfl⟩
  | line1 op st hi hw hc =>
    rw [contextCheck_master hr, inFlightCheck_of_busy hst] at hc
    split at hc <;> cases hc
  | handlerLine op line hl hw hc =>
    have hslave := (contextCheck_handler_none hc).1
    rw [hr] at hslave
    cases hslave

/-- In the middle of an operation a master's host has no action but to be refused (R370; log entry 20). -/
theorem hostAct_refused_of_inFlight (hr : d.role = .master) (hst : d.stage ≠ .idle) (a : HostAct) :
    ∃ r, hostAct a d = d.refuse r := by
  cases a <;>
    simp only [hostAct, hr, inFlightCheck_of_busy hst, ne_eq, not_true_eq_false, if_true, if_false] <;>
    exact ⟨_, rfl⟩

/-- Every move but a direct access or a reset. -/
theorem Move.transStep (hC : s.standard) (hs : s.Inv) (hbus : s.cfg.busMode = .openBus ∨ k = 0)
    (hd : s.devs[k]? = some d) (ht : t.isDirect = false) (hreset : t.isReset = false)
    (hr : d.role = .master) (hst : d.stage.isWc = true ∨ d.stage.isRr = true) (h : d.TransInv s.cfg)
    (hm : Move s k d t d') : d.TransStep s.cfg d' := by
  obtain ⟨hx, hl, -, -⟩ := hs.device hd
  have hself : d.TransStep s.cfg d := (Device.SameEngine.refl d).transStep hst h
  have hrefuse : (∃ r, d' = d.refuse r) → d.TransStep s.cfg d' := by
    rintro ⟨r, rfl⟩
    exact Device.SameEngine.transStep ⟨rfl, rfl, rfl, rfl⟩ hst h
  have hidle : d.stage ≠ .idle := fun hi => by rw [hi] at hst; revert hst; decide
  have hbusStep : d.BusStep d' → d.TransStep s.cfg d' := fun hb =>
    hb.sameEngine.transStep hst (hb.transInv hx h)
  cases hm with
  | stay => exact hself
  | illegal => exact hrefuse ⟨_, rfl⟩
  | issue who w i _ _ _ hop => exact hrefuse (hop.refused_of_inFlight hr hidle)
  | engine =>
    obtain ⟨x, hrun, hstep⟩ := runStage_advances hC hx hl hst h
    rw [hrun]
    exact hstep
  | handler action ha he =>
    rw [(d.handlerEnabled_iff.mp he).1] at hr
    cases hr
  | hostAct a => exact hrefuse (hostAct_refused_of_inFlight hr hidle a)
  | directRefused | directRead | directWrite | directCtrl => cases ht
  | xcvr code b => exact hbusStep (xcvrStep_busStep _ code b hx)
  | jointMaster _ _ _ _ hint hj => exact hbusStep (hj.busStep hint)
  | jointSlave _ hb hk =>
    rw [hb] at hbus
    exact absurd (hbus.resolve_left nofun) hk
  | jointFault ds _ _ hdevs hnone => exact absurd hnone (hs.jointMove_ne_none hdevs)
  | reset | resetAll => cases hreset

end

section
variable {s : State} {d : Device} (h : s.masterIssues d)
include h

/-- Issuing `write_command` runs its `issue` stage (R246; log entry 6). -/
theorem exec_writeCommand (addr : Addr) (b : Byte) :
    exec (.writeCommand addr b) s = .next (s.setCur
      { d with eng := { d.eng with addr := some addr, cmd := some b }, stage := .wcStartGo }) := by
  rw [exec_of_masterIssues h (.writeCommand addr b) (by decide)]
  rfl

/-- Issuing `read_response` runs its `issue` stage (R247; log entry 6). -/
theorem exec_readResponse (addr : Addr) :
    exec (.readResponse addr) s = .next (s.setCur
      { d with eng := { d.eng with addr := some addr }, stage := .rrStartGo }) := by
  rw [exec_of_masterIssues h (.readResponse addr) (by decide)]
  rfl

end

/-- Settles O56: the issue leaves the transceiver as it is; every move keeps `TransInv`. -/
theorem transactionsNeverFault : Obligations.TransactionsNeverFault := by
  refine ⟨fun s d addr b hC h hb hno hover => ?_,
    fun s s' t k d hC ht hreset hs hbus hd hr hst hh h hstep => ?_⟩
  · exact ⟨_, _, exec_writeCommand h addr b, ⟨hb, hno, hover⟩, rfl, exec_readResponse h addr,
      ⟨hb, hno, hover⟩, rfl⟩
  · obtain ⟨hcfg, -, -, hmoves⟩ := turn_moves hstep
    obtain ⟨d', hd', hm⟩ := hmoves k d hd
    obtain ⟨hrole, hfaults, hinv, hstage⟩ := hm.transStep hC hs hbus hd ht hreset hr hst h
    refine ⟨d', hd', hrole.trans hr, hfaults, hcfg ▸ hinv, ?_⟩
    simpa [Stage.sameTransaction, or_assoc] using hstage

end Sys2Proof.Machine

namespace Sys2Proof.Machine

/-! ### The stages of a transaction, one at a time (R241, R243, R246, R247, R258) -/

/-- The address byte by its bits (R100). -/
theorem sla8_eq_append (a : Addr) (dir : Bool) : sla8 a dir = a ++ BitVec.ofBool dir := by
  revert a dir
  decide

theorem runStage_wcIssue {cfg : Config} {d : Device} {addr : Addr} {b : Byte}
    (hst : d.stage = .wcIssue addr b) :
    runStage cfg d =
      .done { d with eng := { d.eng with addr := some addr, cmd := some b }, stage := .wcStartGo } := by
  simp only [runStage, hst]
  rfl

theorem runStage_rrIssue {cfg : Config} {d : Device} {addr : Addr} (hst : d.stage = .rrIssue addr) :
    runStage cfg d = .done { d with eng := { d.eng with addr := some addr }, stage := .rrStartGo } := by
  simp only [runStage, hst]
  rfl

/-- Settles O31: the issue stage latches the operands, a load stage is a write of `DATA`. -/
theorem transactionsAreIssuedAndLoadTheirBytes : Obligations.TransactionsAreIssuedAndLoadTheirBytes := by
  refine ⟨fun s d addr b h => ⟨exec_writeCommand h addr b, exec_readResponse h addr⟩,
    fun s k d addr b hd hh => ⟨fun hst => stepTurn_engine_done hd hh (runStage_wcIssue hst),
      fun hst => stepTurn_engine_done hd hh (runStage_rrIssue hst)⟩,
    fun s k d st nxt v hd hh hst hload => ?_⟩
  have hloads : LoadsByte d v nxt := by
    obtain ⟨a, ha, rfl, rfl, rfl⟩ | ⟨a, ha, rfl, rfl, rfl⟩ | ⟨hc, rfl, rfl⟩ := hload
    · exact sla8_eq_append a false ▸ .wcAddress a hst ha
    · exact sla8_eq_append a true ▸ .rrAddress a hst ha
    · exact .command v hst hc
  have hrun : runStage s.cfg d = .done ((writeData v d).goto nxt) := runStage_of_load hloads
  refine ⟨fun hi => ?_, fun hi => ?_⟩
  · rw [writeData_of_int v d hi] at hrun
    exact stepTurn_engine_done hd hh hrun
  · rw [writeData_of_busy v d hi] at hrun
    exact stepTurn_engine_done hd hh hrun

/-- Is a code one of the named ones: by R97's numbers. -/
theorem isOneOf_iff (c : Byte) (names : List Status) :
    standardStatus.isOneOf c names = true ↔ c ∈ names.map Status.code := List.contains_iff_mem

/-- Settles O32: `classify` by its two lists, a test by its accept set. -/
theorem testStagesAcceptTheirCodesAndClassifyNamesTheOutcome :
    Obligations.TestStagesAcceptTheirCodesAndClassifyNamesTheOutcome := by
  refine ⟨fun code => ?_, fun s k d hC hd hh => ?_⟩
  · have hno : code ∈ ([0x20, 0x30, 0x48] : List Byte) ↔ standardStatus.isOneOf code noAckCodes = true :=
      (isOneOf_iff code noAckCodes).symm
    have hlost : code ∈ ([0x38, 0x68, 0x78, 0xB0] : List Byte) ↔
        standardStatus.isOneOf code arbLostCodes = true := (isOneOf_iff code arbLostCodes).symm
    have hdisjoint : code ∈ ([0x38, 0x68, 0x78, 0xB0] : List Byte) →
        code ∉ ([0x20, 0x30, 0x48] : List Byte) := by
      revert code; decide
    refine ⟨fun h => if_pos (hno.mp h), fun h => ?_, fun h h' => ?_⟩
    · rw [classify, if_neg (mt hno.mpr (hdisjoint h)), if_pos (hlost.mp h)]
    · rw [classify, if_neg (mt hno.mpr h), if_neg (mt hlost.mpr h')]
  · intro code
    have htest : ∀ {st good bad names}, (st, names, good, bad) ∈ testStages → d.stage = st →
        (code ∈ names.map Status.code → stepTurn (.engine k) s = .next (s.after k .host
          { d with eng := { d.eng with code := some code }, stage := good })) ∧
        (code ∉ names.map Status.code → stepTurn (.engine k) s = .next (s.after k .host
          { d with eng := { d.eng with code := some code }, stage := bad })) := by
      intro st good bad names hmem hst
      have hrun : runStage s.cfg d = testCode standardChip names good bad d := by
        rw [runStage_of_test hst hmem, hC]
      refine ⟨fun h => stepTurn_engine_done hd hh (hrun.trans ?_),
        fun h => stepTurn_engine_done hd hh (hrun.trans ?_)⟩
      · rw [testCode, standardChip_status, if_pos ((isOneOf_iff _ _).mpr h)]
        rfl
      · rw [testCode, standardChip_status, if_neg (mt (isOneOf_iff _ _).mp h)]
        rfl
    refine ⟨fun st good bad acc hmem hst => ?_, fun hst hi => ?_⟩
    · simp only [List.mem_cons, List.not_mem_nil, or_false, Prod.mk.injEq] at hmem
      obtain ⟨rfl, rfl, rfl, rfl⟩ | ⟨rfl, rfl, rfl, rfl⟩ | ⟨rfl, rfl, rfl, rfl⟩ := hmem
      · exact htest (.head _) hst
      · exact htest (.tail _ (.head _)) hst
      · exact htest (.tail _ (.tail _ (.head _))) hst
    · refine stepTurn_engine_done hd hh ((runStage_of_readTest hst).trans ?_)
      have hacc : standardStatus.isOneOf code accRrRead = true ↔ code = 0x50 ∨ code = 0x58 :=
        (isOneOf_iff code accRrRead).trans (List.mem_pair (b := 0x50) (c := 0x58))
      simp only [readTest, hC, readData_of_int d hi, standardChip_status, hacc, code]
      rfl

/-! ### Where an outcome comes from (R255, R256) -/

/-- The stages that end a transaction. -/
def Stage.isTransactionEnd : Stage → Bool
  | .wcFinish | .wcAbort | .rrFinish | .rrAbort => true
  | _ => false

section
variable {cfg : Config} {d : Device}

theorem ctrlWrite_map_keepsOutcome {v : Byte} {f : Device → Device}
    (hf : ∀ x, (f x).eng.outcome = x.eng.outcome) :
    ((ctrlWrite cfg v d).map f).EndsWith (·.eng.outcome = d.eng.outcome) :=
  ctrlWrite_map_endsWith rfl fun x hw => by
    have hs := ctrlWrite_sameEngine cfg d v
    rw [hw] at hs
    rw [hf, hs.eng]

theorem lastLine_keepsOutcome {i : Instr} {op : OpKind} {line : Device → Eff} (hl : IsLine cfg i op line) :
    (lastLine line d).EndsWith (·.eng.outcome = d.eng.outcome) := by
  have hs := line_sameEngine cfg d hl
  unfold lastLine
  cases hx : line d with
  | done x => rw [hx] at hs; exact congrArg _ hs.eng
  | fault r x => rw [hx] at hs; exact congrArg _ hs.2.eng
  | refuse r => trivial

theorem withLatch_keepsOutcome {α : Type} {o : Option α} {f : α → Eff}
    (hf : ∀ a, (f a).EndsWith (·.eng.outcome = d.eng.outcome)) :
    (withLatch o f d).EndsWith (·.eng.outcome = d.eng.outcome) := by
  cases o with
  | some a => exact hf a
  | none => rfl

/-- No other stage sets an outcome. -/
theorem runStage_keepsOutcome (h : d.stage.isTransactionEnd = false) :
    (runStage cfg d).EndsWith (·.eng.outcome = d.eng.outcome) := by
  have hdata : ∀ v, (writeData v d).eng = d.eng := fun v => (writeData_sameEngine d v).eng
  have hread : (readData d).2.eng = d.eng := (readData_sameEngine d).eng
  unfold runStage
  cases hst : d.stage with
  | idle => rfl
  | wcFinish | wcAbort | rrFinish | rrAbort => rw [hst] at h; cases h
  | configureMaster1 => exact .ite trivial (.ite trivial (.ite trivial (.ite trivial rfl)))
  | configureSlave1 => exact .ite trivial (.ite trivial (.ite trivial rfl))
  | setAck1 => exact .ite trivial rfl
  | configureMaster4 | configureSlave3 | start1 | writeByte2 | readByte1 | setAck2 | wcStartGo | wcAddrGo
  | wcDataGo | rrStartGo | rrAddrGo | rrReadGo => exact ctrlWrite_map_keepsOutcome fun _ => rfl
  | start2 | writeByte3 | readByte2 | wcStartWait | wcAddrWait | wcDataWait | rrStartWait | rrAddrWait
  | rrReadWait =>
    dsimp only
    unfold hold
    split <;> rfl
  | stop1 => exact lastLine_keepsOutcome .stop
  | armForReply1 => exact lastLine_keepsOutcome .armForReply
  | loadData1 b => exact lastLine_keepsOutcome (cfg := cfg) (.loadData b)
  | readData1 => exact lastLine_keepsOutcome (cfg := cfg) .readData
  | clearEvent1 => exact lastLine_keepsOutcome .clearEvent
  | recover1 => exact lastLine_keepsOutcome .recover
  | readStatus1 => exact lastLine_keepsOutcome .readStatus
  | writeByte1 => exact congrArg _ (hdata _)
  | wcAddrLoad | wcDataLoad | rrAddrLoad => exact withLatch_keepsOutcome fun _ => congrArg _ (hdata _)
  | readByte4 | rrReadTest =>
    show (readData d).2.eng.outcome = d.eng.outcome
    rw [hread]
  | configureMaster2 | configureMaster3 | configureSlave2 | writeByte4 | readByte3 | wcIssue | rrIssue
  | wcAddrTest | wcDataTest | rrAddrTest => rfl

/-- A stage that ends a transaction sets an outcome, or reads a latch that holds no value. -/
theorem runStage_of_transactionEnd (h : d.stage.isTransactionEnd = true) :
    (∃ o, runStage cfg d = stopWith cfg o d) ∨ runStage cfg d = .fault .unwrittenLatch d := by
  have hlatch : ∀ {o : Option Byte} {g : Byte → EngOutcome},
      (∃ out, withLatch o (fun b => stopWith cfg (g b) d) d = stopWith cfg out d) ∨
        withLatch o (fun b => stopWith cfg (g b) d) d = .fault .unwrittenLatch d := by
    intro o g
    cases o with
    | some b => exact .inl ⟨g b, rfl⟩
    | none => exact .inr rfl
  cases hst : d.stage <;> rw [hst] at h <;> simp only [runStage, hst]
  case wcFinish => exact .inl ⟨_, rfl⟩
  case wcAbort | rrAbort | rrFinish => exact hlatch
  all_goals cases h

end

/-- Settles O33: the four ends are `stopWith`; no other stage sets an outcome. -/
theorem operationsEndWithAStopWord : Obligations.OperationsEndWithAStopWord := by
  intro s k d hC hd hh
  refine ⟨fun o ho d' hw => ?_, fun s' d' hstep hd' hne => ?_⟩
  · have hend : EndsWithOutcome s.cfg d o := by
      obtain ⟨hst, rfl⟩ | ⟨b, hst, hb, rfl⟩ | ⟨c, hst, hc, rfl⟩ := ho
      · exact .wcFinish hst
      · exact .rrFinish b hst hb
      · have habort : EndsWithOutcome s.cfg d (classify s.cfg.chip.status c) := .abort c hst hc
        rwa [hC] at habort
    exact stepTurn_engine_done hd hh ((runStage_of_end hend).trans (stopWith_done hC hw))
  · rw [stepTurn_engine hd] at hstep
    cases hstep
    obtain rfl := Option.some.inj ((State.after_get hd .host _).symm.trans hd')
    rw [engineTurn, hh, if_neg Bool.false_ne_true] at hne ⊢
    cases hend : d.stage.isTransactionEnd with
    | false =>
      exact absurd ((runStage_keepsOutcome (cfg := s.cfg) hend).settle (fun _ _ hx => hx) fun _ => rfl) hne
    | true =>
      obtain ⟨o, hrun⟩ | hrun := runStage_of_transactionEnd (cfg := s.cfg) hend
      · rw [hrun] at hne ⊢
        cases hw : ctrlWrite s.cfg 0x94 d with
        | done w =>
          have hs := ctrlWrite_sameEngine s.cfg d 0x94
          rw [hw] at hs
          rw [stopWith_done hC hw]
          refine ⟨rfl, ?_⟩
          rw [← hs.eng, ← hs.stage]
          rfl
        | fault r w =>
          obtain ⟨rfl, -⟩ := ctrlWrite_fault s.cfg d hw
          rw [stopWith_eq hC, hw] at hne
          exact absurd rfl hne
        | refuse r =>
          rw [stopWith_eq hC, hw] at hne
          exact absurd rfl hne
      · rw [hrun] at hne
        exact absurd rfl hne

end Sys2Proof.Machine

namespace Sys2Proof.Machine

/-! ### Whole transactions on the open bus (R246, R247, R260) -/

/-- The turns `ts` on `s` lead to the device `d` at place `k`, free to move, and change nothing else. -/
structure State.RunsTo (s : State) (k : Nat) (ts : List Turn) (d : Device) : Prop where
  run : ∀ rest, runTurns (ts ++ rest) s = runTurns rest (s.after k .host d)
  engine : d.halted .engine = false
  xcvr : d.halted .xcvr = false

/-- The device after a load of `v` with the event pending (R172). -/
def Device.loaded (d : Device) (v : Byte) : Device :=
  { d with data := v, ctrl := { d.ctrl with wc := false } }

/-- The device after a byte step answered by `c`, with the byte `x` if the step draws one (R144, R150). -/
def Device.answered (d : Device) (c : Status) (x : Byte) : Device :=
  ({ d.byteStep with data := if d.phase.isMr || d.phase == .busError then x else d.data } : Device).event c

/-- The device after a test has latched its code (R241). -/
def Device.tested (d : Device) : Device := { d with eng := { d.eng with code := some d.phase.code } }

/-- The device after `RR.read_test` has latched its code and its byte (R247). -/
def Device.readTested (d : Device) : Device :=
  { d with eng := { d.eng with code := some d.phase.code, byte := some d.data } }

/-- The device `d` after the last test of a transaction that began at `d0`: `c` was the answer, `last` is in
`DATA`. -/
structure Device.Tested (d0 d : Device) (c : Status) (last : Byte) : Prop where
  int : d.ctrl.int = true
  pend : d.pend = .none
  phase : d.phase = c
  code : d.eng.code = some c.code
  data : d.data = last
  faults : d.faults = d0.faults
  refused : d.refused = d0.refused

/-- The turns end a transaction of `d0` with the outcome `o`: `last` is in `DATA`, `code` was the last answer; a
stop is pending where the device holds the bus and it has recovered elsewhere (R146, R147, R255). -/
def State.EndsAs (s : State) (k : Nat) (d0 : Device) (turns : List Turn) (o : EngOutcome) (last : Byte)
    (code : Status) : Prop :=
  ∃ d', runTurns turns s = .next (s.after k .host d') ∧
    d'.eng.outcome = some o ∧ d'.stage = .idle ∧ d'.data = last ∧ d'.faults = d0.faults ∧
    d'.refused = d0.refused ∧ d'.eng.code = some code.code ∧ d'.ctrl.int = false ∧
    (code.isOwner = true → d'.pend = .stop ∧ d'.ctrl.sto = true ∧ d'.phase = code) ∧
    (code.isOwner = false → d'.pend = .none ∧ d'.ctrl.sto = false ∧ d'.phase = .noInfo)

/-- The codes that answer a byte step with `EA = 0` in phase `p`, the byte sent being `v` (R152–R155, R160). -/
def answersTo (p : Status) (v : Byte) : List Status :=
  if p = .busError then anyCodes
  else if p.isMt then [.mtDataAck, .mtDataNack, .arbLost, .busError]
  else if p.isMr then [.mrDataNack, .arbLost, .busError]
  else if v.getLsbD 0 then [.mrSlaAck, .mrSlaNack, .arbLost, .busError]
  else [.mtSlaAck, .mtSlaNack, .arbLost, .busError]

theorem completionCodes_byteStep (O : OadrLayout) {d : Device} (hp : d.phase.takesByte = true) (st : Stage) :
    completionCodes O (d.byteStep.goto st) = some (answersTo d.phase d.data) := by
  let w := d.byteStep.goto st
  have hw : w.pend = .byte := rfl
  simp only [Status.takesByte, Bool.or_eq_true, beq_iff_eq, or_assoc] at hp
  obtain hp | hp | hp | hp := hp
  · have hno : d.phase ≠ .busError ∧ d.phase.isMt = false ∧ d.phase.isMr = false := by
      revert hp; cases d.phase <;> decide
    have htx : w.txbyte = some d.data := by simp [w, Device.byteStep, hp]
    rw [completionCodes_addr (d := w) hw hp htx]
    simp only [answersTo, hno, if_false, Bool.false_eq_true]
    split <;> rfl
  · have hno : d.phase ≠ .busError := by rintro h; rw [h] at hp; cases hp
    rw [completionCodes_mt (d := w) hw hp]
    simp [answersTo, hno, hp]
    rfl
  · have hno : d.phase ≠ .busError ∧ d.phase.isMt = false := by revert hp; cases d.phase <;> decide
    have hack : w.ack = some false := by simp [w, Device.byteStep, hp]
    rw [completionCodes_mr (d := w) hw hp hack]
    simp [answersTo, hno, hp]
    rfl
  · rw [completionCodes_busError (d := w) hw hp]
    simp [answersTo, hp]

theorem completionEnabled_byteStep {d : Device} (hp : d.phase.takesByte = true) (st : Stage) :
    completionEnabled (d.byteStep.goto st) = true := by
  simpa [completionEnabled, Device.byteStep, Status.takesByte] using hp

theorem stopStep_of_owner {d : Device} (h : d.phase.isOwner = true) :
    d.stopStep = (d.commanded false false true false).setPend .stop := if_pos h

theorem stopStep_of_noOwner {d : Device} (h : d.phase.isOwner = false) :
    d.stopStep = (d.commanded false false false false).unaddressed := if_neg (by simp [h])

section
variable {s : State} {k : Nat} {ts : List Turn} {d d' e : Device} (hd : s.devs[k]? = some e)
  (h : s.RunsTo k ts d)
include hd h

/-- The engine runs a stage. -/
theorem State.RunsTo.engine_turn (hr : runStage s.cfg d = .done d') (hf : d'.faults = d.faults) :
    s.RunsTo k (ts ++ [.engine k]) d' := by
  obtain ⟨hrun, hengine, hxcvr⟩ := h
  refine ⟨fun rest => ?_, by rwa [Device.halted, hf], by rwa [Device.halted, hf]⟩
  rw [List.append_assoc, hrun]
  exact runTurns_engine hd hengine hr rest

/-- The transceiver completes a command. -/
theorem State.RunsTo.xcvr_turn (hb : s.cfg.busMode = .openBus) {code : Status} {b data : Byte}
    {cs : List Status} (hc : completionEnabled d = true)
    (hcs : completionCodes s.cfg.chip.oadr d = some cs) (hmem : code ∈ cs)
    (hdata : (if completionDrawsData d then b else d.data) = data) :
    s.RunsTo k (ts ++ [.xcvr k code b]) (({ d with data := data } : Device).event code) := by
  obtain ⟨hrun, hengine, hxcvr⟩ := h
  refine ⟨fun rest => ?_, hengine, hxcvr⟩
  rw [List.append_assoc, hrun]
  have hstep := xcvrStep_of_memCodes (b := b) hxcvr hc hcs hmem
  rw [hdata] at hstep
  rw [← hstep]
  exact runTurns_xcvr hd hb code b rest

section
variable {st w nxt : Stage} (hC : s.standard) (hb : s.cfg.busMode = .openBus) (hst : d.stage = st)
include hC hb hst

/-- A start off the bus, its completion and the hold's end (R151, R203). -/
theorem State.RunsTo.start (hg : (st, 0xA4, w) ∈ goStages) (hw : (w, nxt) ∈ holdStages)
    (hp : d.pend = .none) (hphase : d.phase = .noInfo) {p : Status} (hmem : p ∈ [Status.start, .busError])
    (x : Byte) :
    s.RunsTo k (ts ++ [.engine k, .xcvr k p x, .engine k]) ((d.startStep.event p).goto nxt) := by
  have hgo := (runStage_of_go (cfg := s.cfg) hC hst hg).trans (ctrlThen_done (ctrlWrite_startStep hC
    (by simp [Device.busy, hp]) (by simp [hp, Pend.isStop])))
  let d1 := d.startStep.goto w
  have hcs : completionCodes s.cfg.chip.oadr d1 = some [.start, .busError] := by
    rw [completionCodes_start (d := d1) rfl]
    simp [d1, hphase, Status.isOwner, ownerPhases]
  have h1 := h.engine_turn hd hgo rfl
  have h2 := h1.xcvr_turn hd hb (b := x) (data := d1.data) (d := d1) rfl hcs hmem
    (by simp [completionDrawsData, d1, hphase])
  have h3 := h2.engine_turn hd ((runStage_of_hold (st := w) rfl hw).trans (hold_of_int rfl)) rfl
  simp only [List.append_assoc, List.cons_append, List.nil_append] at h3
  exact h3

/-- A byte step, its answer and the hold's end (R152–R155, R205, R206). -/
theorem State.RunsTo.byte (hg : (st, 0x84, w) ∈ goStages) (hw : (w, nxt) ∈ holdStages)
    (hi : d.ctrl.int = true) (hp : d.phase.takesByte = true) {c : Status}
    (hmem : c ∈ answersTo d.phase d.data) (x : Byte) :
    s.RunsTo k (ts ++ [.engine k, .xcvr k c x, .engine k]) ((d.answered c x).goto nxt) := by
  have hgo := (runStage_of_go (cfg := s.cfg) hC hst hg).trans (ctrlThen_done (ctrlWrite_byteStep hC hi hp))
  let d1 := d.byteStep.goto w
  have h1 := h.engine_turn hd hgo rfl
  have h2 := h1.xcvr_turn hd hb (b := x) (d := d1) (completionEnabled_byteStep hp w)
    (completionCodes_byteStep _ hp w) hmem rfl
  have h3 := h2.engine_turn hd ((runStage_of_hold (st := w) rfl hw).trans (hold_of_int rfl)) rfl
  simp only [List.append_assoc, List.cons_append, List.nil_append] at h3
  exact h3

end

/-- A load with the event pending (R172). -/
theorem State.RunsTo.load {v : Byte} {nxt : Stage} (hl : LoadsByte d v nxt) (hi : d.ctrl.int = true) :
    s.RunsTo k (ts ++ [.engine k]) ((d.loaded v).goto nxt) := by
  have hload : runStage s.cfg d = .done ((writeData v d).goto nxt) := runStage_of_load hl
  rw [writeData_of_int v d hi] at hload
  exact h.engine_turn hd hload rfl

/-- A test of the code (R241). -/
theorem State.RunsTo.test (hC : s.standard) (hi : d.ctrl.int = true) {acc : List Status} {st good bad : Stage}
    (hst : d.stage = st) (ht : (st, acc, good, bad) ∈ testStages) :
    s.RunsTo k (ts ++ [.engine k]) (d.tested.goto (if d.phase ∈ acc then good else bad)) :=
  h.engine_turn hd ((runStage_of_test hst ht).trans (testCode_of_int hC hi acc good bad)) rfl

/-- The test of the received byte (R247). -/
theorem State.RunsTo.readTest (hC : s.standard) (hi : d.ctrl.int = true) (hst : d.stage = .rrReadTest) :
    s.RunsTo k (ts ++ [.engine k])
      (d.readTested.goto (if d.phase ∈ accRrRead then .rrFinish else .rrAbort)) :=
  h.engine_turn hd ((runStage_of_readTest hst).trans (readTest_of_int hC hi)) rfl

/-- The end of a transaction (R255–R257). -/
theorem State.RunsTo.ends (hC : s.standard) {d0 : Device} {c : Status} {last : Byte} {o : EngOutcome}
    (ht : d0.Tested d c last) (ho : EndsWithOutcome s.cfg d o) :
    s.EndsAs k d0 (ts ++ [.engine k]) o last c := by
  obtain ⟨hint, hpend, rfl, hcode, hdata, hfaults, hrefused⟩ := ht
  have hend := h.engine_turn hd ((runStage_of_end ho).trans (stopWith_done hC
    (ctrlWrite_stopStep hC (d.busy_of_int hint) (by rw [hpend]; rfl)))) (stopStep_sameEngine d).faults
  have hrun := hend.run []
  rw [List.append_nil] at hrun
  refine ⟨_, hrun, rfl, rfl, ?_⟩
  cases howner : d.phase.isOwner with
  | true =>
    rw [stopStep_of_owner howner]
    exact ⟨hdata, hfaults, hrefused, hcode, rfl, fun _ => ⟨rfl, rfl, rfl⟩, nofun⟩
  | false =>
    rw [stopStep_of_noOwner howner]
    exact ⟨hdata, hfaults, hrefused, hcode, rfl, nofun, fun _ => ⟨rfl, rfl, rfl⟩⟩

end

/-- The word of `write_command` (R246). -/
theorem decodeOp_writeCommand (addr : Addr) (b : Byte) :
    decodeOp (0xD0000000#32 ||| (addr.zeroExtend 32 <<< 16) ||| (b.zeroExtend 32 <<< 8)) =
      .ok (.writeCommand addr b) :=
  (inFormat_OPRB 0xD addr b).decodeOp_eq .writeCommand (by simp)

/-- The word of `read_response` (R247). -/
theorem decodeOp_readResponse (addr : Addr) :
    decodeOp (0xE0000000#32 ||| (addr.zeroExtend 32 <<< 16)) = .ok (.readResponse addr) :=
  (inFormat_OPR 0xE addr).decodeOp_eq .readResponse (by simp)

/-- A master's host at rest issues an operation. -/
theorem runsTo_issue {s : State} {k : Nat} {d d1 : Device} {w : OpWord} {i : Instr} (hd : s.devs[k]? = some d)
    (hh : d.halted .host = false) (he : d.halted .engine = false) (hx : d.halted .xcvr = false)
    (hw : decodeOp w = .ok i) (hi : exec i (s.focus k .host) = .next ((s.focus k .host).setCur d1))
    (hf : d1.faults = d.faults) : s.RunsTo k [.issue k .host w] d1 := by
  refine ⟨fun rest => ?_, by rwa [Device.halted, hf], by rwa [Device.halted, hf]⟩
  have hstep := stepTurn_issue_host hd hh w
  rw [hw] at hstep
  exact runTurns_cons_next (hstep.trans hi)

/-- After a bus error every code of R97 but 0xF8 may answer a byte step (R155). -/
theorem mem_answersTo_busError {c : Status} (h : c ≠ .noInfo) (v : Byte) : c ∈ answersTo .busError v := by
  show c ∈ anyCodes
  revert h
  cases c <;> decide

/-- The answers to an address byte by its direction (R152, R160). -/
theorem answersTo_start (a : Addr) (dir : Bool) :
    answersTo .start (sla8 a dir) = (if dir then [.mrSlaAck, .mrSlaNack, .arbLost, .busError]
      else [.mtSlaAck, .mtSlaNack, .arbLost, .busError]) :=
  congrArg (fun b : Bool => if b then _ else _) (sla8_fields a dir).1

/-- An `abort` stage, with the outcome in the spec's numbers. -/
theorem endsWithOutcome_abort {s : State} (hC : s.standard) {d : Device} {c : Status}
    (hst : d.stage = .wcAbort ∨ d.stage = .rrAbort) (hc : d.eng.code = some c.code) :
    EndsWithOutcome s.cfg d (classify standardStatus c.code) := by
  have h := EndsWithOutcome.abort (cfg := s.cfg) _ hst hc
  rwa [hC] at h

/-- The stages of a start and an address byte, the codes their test accepts, and where it goes. -/
structure AddressStages where
  (startGo startWait load go wait test : Stage)
  accept : List Status
  (good bad : Stage)

/-- These stages of `write_command` (direction 0, R246) and of `read_response` (direction 1, R247). -/
def addressStages : Bool → AddressStages
  | false => ⟨.wcStartGo, .wcStartWait, .wcAddrLoad, .wcAddrGo, .wcAddrWait, .wcAddrTest, accWcAddr,
      .wcDataLoad, .wcAbort⟩
  | true => ⟨.rrStartGo, .rrStartWait, .rrAddrLoad, .rrAddrGo, .rrAddrWait, .rrAddrTest, accRrAddr,
      .rrReadGo, .rrAbort⟩

theorem addressStages_go (dir : Bool) :
    ((addressStages dir).startGo, 0xA4, (addressStages dir).startWait) ∈ goStages ∧
      ((addressStages dir).go, 0x84, (addressStages dir).wait) ∈ goStages := by
  revert dir; decide

theorem addressStages_hold (dir : Bool) :
    ((addressStages dir).startWait, (addressStages dir).load) ∈ holdStages ∧
      ((addressStages dir).wait, (addressStages dir).test) ∈ holdStages := by
  revert dir; decide

theorem addressStages_test (dir : Bool) :
    ((addressStages dir).test, (addressStages dir).accept, (addressStages dir).good, (addressStages dir).bad) ∈
      testStages := by
  cases dir with
  | false => exact .head _
  | true => exact .tail _ (.tail _ (.head _))

theorem addressStages_bad (dir : Bool) :
    (addressStages dir).bad = .wcAbort ∨ (addressStages dir).bad = .rrAbort := by
  revert dir; decide

theorem addressStages_loads {d : Device} {addr : Addr} (dir : Bool) (hst : d.stage = (addressStages dir).load)
    (ha : d.eng.addr = some addr) : LoadsByte d (sla8 addr dir) (addressStages dir).go := by
  cases dir with
  | false => exact .wcAddress addr hst ha
  | true => exact .rrAddress addr hst ha

/-- The device after its start was reported as `started`, and its address byte answered by `c` and tested. -/
def Device.addressed (d : Device) (addr : Addr) (dir : Bool) (started c : Status) (x : Byte) : Device :=
  ((((d.startStep.event started).loaded (sla8 addr dir)).goto (addressStages dir).go).answered c x).tested

/-- A transaction about to send its start: no command is pending and the device is off the bus. -/
structure Device.StartsAt (d : Device) (addr : Addr) (dir : Bool) : Prop where
  stage : d.stage = (addressStages dir).startGo
  addr : d.eng.addr = some addr
  pend : d.pend = .none
  phase : d.phase = .noInfo

section
variable {s : State} {k : Nat} {ts : List Turn} {d e : Device} {addr : Addr} {dir : Bool} {started c : Status}
  (hd : s.devs[k]? = some e) (h : s.RunsTo k ts d) (hC : s.standard) (hb : s.cfg.busMode = .openBus)
  (hs : d.StartsAt addr dir) (hstarted : started ∈ [Status.start, .busError])
  (hc : c ∈ answersTo started (sla8 addr dir)) (x : Byte)
include hd h hC hb hs hstarted hc

/-- The start, the address byte and its test. -/
theorem State.RunsTo.address :
    s.RunsTo k (ts ++ [.engine k, .xcvr k started x, .engine k, .engine k, .engine k, .xcvr k c x, .engine k,
        .engine k])
      ((d.addressed addr dir started c x).goto
        (if c ∈ (addressStages dir).accept then (addressStages dir).good else (addressStages dir).bad)) := by
  obtain ⟨hstage, haddr, hpend, hphase⟩ := hs
  obtain ⟨hstartGo, haddrGo⟩ := addressStages_go dir
  obtain ⟨hstartWait, haddrWait⟩ := addressStages_hold dir
  have htakes : ∀ p ∈ [Status.start, .busError], p.takesByte = true := by decide
  have hstart := h.start hd hC hb hstage hstartGo hstartWait hpend hphase hstarted x
  have hload := hstart.load hd (addressStages_loads dir rfl haddr) rfl
  have hbyte := hload.byte hd hC hb rfl haddrGo haddrWait rfl (htakes started hstarted) hc x
  have htest := hbyte.test hd hC rfl rfl (addressStages_test dir)
  simp only [List.append_assoc, List.cons_append, List.nil_append] at htest
  exact htest

/-- An answer the test of the address byte does not accept ends the transaction (R255, R256). -/
theorem State.RunsTo.addressRefused (hno : c ∉ (addressStages dir).accept) {last : Byte}
    (hlast : (d.addressed addr dir started c x).data = last) :
    s.EndsAs k d (ts ++ [.engine k, .xcvr k started x, .engine k, .engine k, .engine k, .xcvr k c x, .engine k,
      .engine k, .engine k]) (classify standardStatus c.code) last c := by
  have hrun := h.address hd hC hb hs hstarted hc x
  rw [if_neg hno] at hrun
  have hend := hrun.ends hd hC (d0 := d) ⟨rfl, rfl, rfl, rfl, hlast, rfl, rfl⟩
    (endsWithOutcome_abort hC (addressStages_bad dir) rfl)
  simp only [List.append_assoc, List.cons_append, List.nil_append] at hend
  exact hend

end

/-- `SLA+W` and `SLA+R` may be acknowledged, after a start and after a bus error (R152, R155). -/
theorem slaAck_mem_answersTo (addr : Addr) (dir : Bool) {started : Status}
    (h : started ∈ [Status.start, .busError]) :
    (if dir then Status.mrSlaAck else .mtSlaAck) ∈ answersTo started (sla8 addr dir) := by
  simp only [List.mem_cons, List.not_mem_nil, or_false] at h
  obtain rfl | rfl := h
  · rw [answersTo_start]
    cases dir <;> decide
  · exact mem_answersTo_busError (by cases dir <;> decide) _

/-- Settles O34: the start and the address byte, then the command byte, each answered, then the end. -/
theorem writeCommandRuns : Obligations.WriteCommandRuns := by
  intro s k d addr b x hC hd hb hh he hx hr hst hi hsto hp hphase e toAddress ends
  let d1 : Device := { d with eng := { d.eng with addr := some addr, cmd := some b }, stage := .wcStartGo }
  have hissue : s.RunsTo k _ d1 := runsTo_issue hd hh he hx (decodeOp_writeCommand addr b)
    (exec_writeCommand (s := s.focus k .host) ⟨hd, rfl, hr, hst⟩ addr b) rfl
  have hs : d1.StartsAt addr false := ⟨rfl, rfl, hp, hphase⟩
  refine ⟨fun c hc => ?_, fun c hne hno => ?_, fun started hstarted => ?_⟩
  · obtain ⟨hmem, hno⟩ : c ∈ [Status.mtSlaAck, .mtSlaNack, .arbLost, .busError] ∧ c ∉ accWcAddr := by
      revert c; decide
    exact hissue.addressRefused hd hC hb hs (.head _) (by rwa [answersTo_start]) x hno
      (sla8_eq_append addr false)
  · exact hissue.addressRefused hd hC hb hs (.tail _ (.head _)) (mem_answersTo_busError hno _) x
      (by simpa [addressStages, accWcAddr] using hne) rfl
  · intro toData
    have hload := (hissue.address hd hC hb hs hstarted (slaAck_mem_answersTo addr false hstarted) x).load hd
      (.command b rfl rfl) rfl
    have hdata : ∀ c ∈ [Status.mtDataAck, .mtDataNack, .arbLost, .busError],
        s.RunsTo k (toData ++ [.xcvr k c x, e, e])
          (((((d1.addressed addr false started .mtSlaAck x).loaded b).goto .wcDataGo).answered c x).tested.goto
            (if c ∈ accWcData then .wcFinish else .wcAbort)) := fun c hc =>
      (hload.byte hd hC hb rfl (st := .wcDataGo) (w := .wcDataWait) (nxt := .wcDataTest) (by decide)
        (by decide) rfl rfl hc x).test hd hC rfl rfl (.tail _ (.head _))
    refine ⟨fun c hc => ?_, ?_⟩
    · obtain ⟨hmem, hno⟩ : c ∈ [Status.mtDataAck, .mtDataNack, .arbLost, .busError] ∧ c ∉ accWcData := by
        revert c; decide
      have hrun := hdata c hmem
      rw [if_neg hno] at hrun
      exact hrun.ends hd hC ⟨rfl, rfl, rfl, rfl, rfl, rfl, rfl⟩ (endsWithOutcome_abort hC (.inl rfl) rfl)
    · exact (hdata .mtDataAck (by decide)).ends hd hC ⟨rfl, rfl, rfl, rfl, rfl, rfl, rfl⟩ (.wcFinish rfl)

/-- Settles O35: the start and the address byte, then the byte received, each answered, then the end. -/
theorem readResponseRuns : Obligations.ReadResponseRuns := by
  intro s k d addr b x hC hd hb hh he hx hr hst hi hsto hp hphase e toAddress ends
  let d1 : Device := { d with eng := { d.eng with addr := some addr }, stage := .rrStartGo }
  have hissue : s.RunsTo k _ d1 := runsTo_issue hd hh he hx (decodeOp_readResponse addr)
    (exec_readResponse (s := s.focus k .host) ⟨hd, rfl, hr, hst⟩ addr) rfl
  have hs : d1.StartsAt addr true := ⟨rfl, rfl, hp, hphase⟩
  refine ⟨fun c hc => ?_, fun c hne hno => ?_, fun started hstarted => ?_⟩
  · obtain ⟨hmem, hno⟩ : c ∈ [Status.mrSlaAck, .mrSlaNack, .arbLost, .busError] ∧ c ∉ accRrAddr := by
      revert c; decide
    exact hissue.addressRefused hd hC hb hs (.head _) (by rwa [answersTo_start]) x hno
      (sla8_eq_append addr true)
  · exact hissue.addressRefused hd hC hb hs (.tail _ (.head _)) (mem_answersTo_busError hno _) x
      (by simpa [addressStages, accRrAddr] using hne) rfl
  · intro toData
    have haddress := hissue.address hd hC hb hs hstarted (slaAck_mem_answersTo addr true hstarted) x
    have hdata : ∀ c ∈ [Status.mrDataNack, .arbLost, .busError],
        s.RunsTo k (toData ++ [.xcvr k c b, e, e])
          ((((d1.addressed addr true started .mrSlaAck x).goto .rrReadGo).answered c b).readTested.goto
            (if c ∈ accRrRead then .rrFinish else .rrAbort)) := fun c hc =>
      (haddress.byte hd hC hb rfl (st := .rrReadGo) (w := .rrReadWait) (nxt := .rrReadTest) (by decide)
        (by decide) rfl rfl hc b).readTest hd hC rfl rfl
    refine ⟨fun c hc => ?_, ?_⟩
    · obtain ⟨hmem, hno⟩ : c ∈ [Status.mrDataNack, .arbLost, .busError] ∧ c ∉ accRrRead := by
        revert c; decide
      have hrun := hdata c hmem
      rw [if_neg hno] at hrun
      exact hrun.ends hd hC ⟨rfl, rfl, rfl, rfl, rfl, rfl, rfl⟩ (endsWithOutcome_abort hC (.inr rfl) rfl)
    · exact (hdata .mrDataNack (by decide)).ends hd hC ⟨rfl, rfl, rfl, rfl, rfl, rfl, rfl⟩
        (.rrFinish b rfl rfl)

end Sys2Proof.Machine

namespace Sys2Proof.Machine

/-! ### The handler's key (R114, R282) -/

/-- The codes with a row of their own in the handler's table (R114). -/
def keyedPhases : List Status :=
  [.srSlaAck, .srGcallAck, .srDataAck, .srGcallDataAck, .stSlaAck, .stDataAck]

theorem decodeEvt_of_other {key : Byte} (h : key ∉ keyedPhases.map Status.code) :
    decodeEvt standardStatus key = .evtOther key := by
  have hne : ∀ p ∈ keyedPhases, key ≠ p.code := fun p hp he => h (List.mem_map.mpr ⟨p, hp, he.symm⟩)
  simp only [keyedPhases, List.forall_mem_cons] at hne
  obtain ⟨h1, h2, h3, h4, h5, h6, -⟩ := hne
  exact (if_neg h1).trans <| (if_neg h2).trans <| (if_neg h3).trans <| (if_neg h4).trans <|
    (if_neg h5).trans (if_neg h6)

section
variable {s : State} {k : Nat} {d : Device} (hC : s.standard) (hd : s.devs[k]? = some d)
include hC hd

/-- A handler turn, its interrupt taken, runs the instruction of the phase's code. -/
theorem stepTurn_handler_standard (he : d.handlerEnabled = true) :
    stepTurn (.handler k) s = exec (decodeEvt standardStatus d.phase.code) (s.focus k .handler) := by
  obtain ⟨-, hint, -⟩ := d.handlerEnabled_iff.mp he
  rw [stepTurn_handler hd he, hC, statusCode_standard, if_pos hint, standardChip_status]

theorem stepTurn_handler_of_key (he : d.handlerEnabled = true) {p : Status} {i : Instr}
    (hi : decodeEvt standardStatus p.code = i) (hp : d.phase = p) :
    stepTurn (.handler k) s = exec i (s.focus k .handler) := by
  rw [stepTurn_handler_standard hC hd he, hp, hi]

theorem stepTurn_handler_of_other (he : d.handlerEnabled = true)
    (h : d.phase.code ∉ keyedPhases.map Status.code) :
    stepTurn (.handler k) s = exec (.evtOther d.phase.code) (s.focus k .handler) := by
  rw [stepTurn_handler_standard hC hd he, decodeEvt_of_other h]

end

/-- Settles O45: the key is the code of the phase, which names its class. -/
theorem handlerRunsExactlyWhenItsInterruptIsTaken :
    Obligations.HandlerRunsExactlyWhenItsInterruptIsTaken := by
  intro s k d hC hd s1
  refine ⟨fun hr hint hie hen hgie hh => ?_, fun hoff => ?_⟩
  · have he := d.handlerEnabled_iff.mpr ⟨hr, hint, hie, hen, hgie, hh⟩
    exact ⟨stepTurn_handler_of_key hC hd he rfl, stepTurn_handler_of_key hC hd he rfl,
      stepTurn_handler_of_key hC hd he rfl, stepTurn_handler_of_key hC hd he rfl,
      stepTurn_handler_of_key hC hd he rfl, stepTurn_handler_of_key hC hd he rfl,
      stepTurn_handler_of_other hC hd he⟩
  · refine stepTurn_handler_off hd (Bool.eq_false_iff.mpr fun he => ?_)
    obtain ⟨hr, hint, hie, hen, hgie, -⟩ := d.handlerEnabled_iff.mp he
    simp [hr, hint, hie, hen, hgie] at hoff

/-! ### The handler's lines with an event pending (R283–R286) -/

/-- A slave that has taken an address or a byte and listens for the next one (R283). -/
def Device.listening (d : Device) : Device :=
  { d with
    ctrl := { d.ctrl with int := false, sta := false, sto := false }
    ack := some d.ctrl.ea, pend := .byte }

/-- A slave whose byte in `DATA` goes out next (R285). -/
def Device.replying (d : Device) : Device :=
  { d.commanded true false false true with txbyte := some d.data, ack := some true, pend := .byte }

/-- A device that is made to leave the bus (R286). -/
def Device.recovering (d : Device) : Device :=
  stopCmd { d with ctrl := { d.ctrl with int := false, sta := false, sto := true } }

section
variable {cfg : Config} {d : Device} (hC : cfg.chip = standardChip) (hi : d.ctrl.int = true)
include hC hi

theorem clearEventLine_of_receive (hen : d.ctrl.en = true)
    (hp : d.phase.isSrOwn = true ∨ d.phase.isSrGc = true) :
    clearEventLine cfg d = .done d.listening := by
  rw [clearEventLine, hC, standardChip_words, standardChip_ctrl, wordClearEvent_eq, hen,
    ctrlWrite_continueWord hC (d.busy_of_int hi), Device.commanded_of_en hen]
  exact continueCmd_of_receive (w := { d with ctrl := _ }) hi (.inr hp)

theorem armForReplyLine_of_reply (hp : d.phase.isSt = true) : armForReplyLine cfg d = .done d.replying := by
  rw [armForReplyLine, hC, standardChip_words, armForReply_word,
    ctrlWrite_continueWord hC (d.busy_of_int hi)]
  exact continueCmd_of_reply (w := d.commanded _ _ _ _) hi hp

theorem recoverLine_of_event (hen : d.ctrl.en = true) : recoverLine cfg d = .done d.recovering := by
  rw [recoverLine, hC, standardChip_words, standardChip_ctrl, wordRecover_eq, hen,
    ctrlWrite_stopWord hC (d.busy_of_int hi), Device.commanded_of_en hen]
  rfl

end

/-! ### One invocation, class by class (R281, R352) -/

section
variable {s : State} {d : Device} (hC : s.standard) (hd : s.devs[s.cur]? = some d)
  (hi : d.ctrl.int = true)

include hd in
/-- An action that is done, between the entry and the return of the interrupt. -/
theorem invokeHandler_done {action : Device → Eff} {x : Device} (h : action (takeInterrupt d) = .done x) :
    invokeHandler action s = .next (s.setCur (returnFromInterrupt x)) := by
  rw [invokeHandler, onCur_some _ hd, handlerInvocation, h]
  rfl

include hC hd hi

theorem invokeHandler_addrW (hen : d.ctrl.en = true)
    (hp : d.phase.isSrOwn = true ∨ d.phase.isSrGc = true) :
    invokeHandler (addrWAction s.cfg) s = .next (s.setCur (returnFromInterrupt d.listening)) :=
  invokeHandler_done hd (x := (takeInterrupt d).listening)
    (clearEventLine_of_receive (d := takeInterrupt d) hC hi hen hp)

theorem invokeHandler_dataRx (hen : d.ctrl.en = true)
    (hp : d.phase.isSrOwn = true ∨ d.phase.isSrGc = true) :
    invokeHandler (dataRxAction s.cfg) s =
      .next (s.setCur (returnFromInterrupt (writeCell d.data d).listening)) := by
  refine invokeHandler_done hd (x := (writeCell d.data (takeInterrupt d)).listening) ?_
  rw [dataRxAction, readData_of_int (takeInterrupt d) hi]
  exact clearEventLine_of_receive (d := writeCell d.data (takeInterrupt d)) hC hi hen hp

theorem invokeHandler_dataReq (hp : d.phase.isSt = true) :
    invokeHandler (dataReqAction s.cfg) s =
      .next (s.setCur (returnFromInterrupt (d.loaded d.resp).replying)) := by
  refine invokeHandler_done hd (x := ((takeInterrupt d).loaded d.resp).replying) ?_
  rw [dataReqAction, writeData_of_int _ (takeInterrupt d) hi]
  exact armForReplyLine_of_reply (d := (takeInterrupt d).loaded d.resp) hC hi hp

theorem invokeHandler_other (hen : d.ctrl.en = true) :
    invokeHandler (otherAction s.cfg) s =
      .next (s.setCur (returnFromInterrupt (takeInterrupt d).recovering)) :=
  invokeHandler_done hd (recoverLine_of_event (d := takeInterrupt d) hC hi hen)

end

/-- Settles O46: both classes clear the event with a `CONTINUE` word in a receiver's phase, `DATA_RX` after
it has stored the byte. -/
theorem receiveEventsKeepListening : Obligations.ReceiveEventsKeepListening := by
  refine ⟨fun s d hC hd hi hen => ⟨fun hp => ?_, fun hp => ?_⟩,
    fun s d hC hd hi hen => ⟨fun hp => ?_, fun hp => ?_⟩⟩
  · exact invokeHandler_addrW hC hd hi hen (.inl (by rw [hp]; rfl))
  · exact invokeHandler_addrW hC hd hi hen (.inr (by rw [hp]; rfl))
  · exact invokeHandler_dataRx hC hd hi hen (.inl (by rw [hp]; rfl))
  · exact invokeHandler_dataRx hC hd hi hen (.inr (by rw [hp]; rfl))

/-- Settles O47: `DATA` takes `RESP`, and a `CONTINUE` word in a transmitter's phase latches it. -/
theorem readRequestSendsTheResponseValue : Obligations.ReadRequestSendsTheResponseValue := by
  intro s d hC hd hi d'
  have hrun : d.phase.isSt = true → invokeHandler (dataReqAction s.cfg) s = .next (s.setCur d') :=
    invokeHandler_dataReq hC hd hi
  exact ⟨fun hp => hrun (by rw [hp]; rfl), fun hp => hrun (by rw [hp]; rfl)⟩

/-- Settles O48: a `STOP` word with nothing pending, on the bus or off it. -/
theorem otherEventsRecover : Obligations.OtherEventsRecover := by
  intro s d key hC hd hi hen hp hkey ctrl
  have hrun : exec (.evtOther key) s = _ := invokeHandler_other hC hd hi hen
  have hcmd : (takeInterrupt d).recovering = _ :=
    stopCmd_of_noStop (w := { takeInterrupt d with ctrl := ctrl true }) (by rw [takeInterrupt, hp]; rfl)
  refine ⟨fun ho => ?_, fun ho => ?_⟩
  · rw [hrun, hcmd.trans (if_neg (by simp [takeInterrupt, ho]))]
    rfl
  · rw [hrun, hcmd.trans (if_pos ho)]
    rfl

/-! ### What every invocation leaves (R287, R352, R353) -/

/-- `d'` is `d` after one invocation of its handler. -/
structure Device.Handled (d d' : Device) : Prop where
  int : d'.ctrl.int = false
  en : d'.ctrl.en = true
  ie : d'.ctrl.ie = true
  ea : d.ctrl.ea = true → d'.ctrl.ea = true
  gie : d'.gie = true
  frame : d' = { d with
    ctrl := d'.ctrl, data := d'.data, phase := d'.phase, pend := d'.pend, txbyte := d'.txbyte
    ack := d'.ack, cell := d'.cell, gie := d'.gie }

section
variable {s : State} {k : Nat} {d : Device}

theorem handled_recovering (hen : d.ctrl.en = true) (hie : d.ctrl.ie = true) :
    d.Handled (returnFromInterrupt (takeInterrupt d).recovering) := by
  unfold Device.recovering stopCmd
  split_ifs <;> exact ⟨rfl, hen, hie, id, rfl, rfl⟩

/-- Whatever the code, the handler's turn ends (R287). -/
theorem stepTurn_handler_handled (hC : s.standard) (hd : s.devs[k]? = some d)
    (he : d.handlerEnabled = true) :
    ∃ d', stepTurn (.handler k) s = .next (s.after k .handler d') ∧ d.Handled d' := by
  obtain ⟨-, hi, hie, hen, -⟩ := d.handlerEnabled_iff.mp he
  have hd' : (s.focus k .handler).devs[(s.focus k .handler).cur]? = some d := hd
  have hC' : (s.focus k .handler).standard := hC
  have hlisten : ∀ v, d.Handled (returnFromInterrupt (writeCell v d).listening) := fun _ =>
    ⟨rfl, hen, hie, id, rfl, rfl⟩
  have hreply : d.Handled (returnFromInterrupt (d.loaded d.resp).replying) :=
    ⟨rfl, rfl, rfl, fun _ => rfl, rfl, rfl⟩
  by_cases hkey : d.phase ∈ keyedPhases
  · simp only [keyedPhases, List.mem_cons, List.not_mem_nil, or_false] at hkey
    obtain hp | hp | hp | hp | hp | hp := hkey <;> rw [stepTurn_handler_of_key hC hd he rfl hp]
    · exact ⟨_, invokeHandler_addrW hC' hd' hi hen (.inl (by rw [hp]; rfl)), hlisten d.cell⟩
    · exact ⟨_, invokeHandler_addrW hC' hd' hi hen (.inr (by rw [hp]; rfl)), hlisten d.cell⟩
    · exact ⟨_, invokeHandler_dataRx hC' hd' hi hen (.inl (by rw [hp]; rfl)), hlisten d.data⟩
    · exact ⟨_, invokeHandler_dataRx hC' hd' hi hen (.inr (by rw [hp]; rfl)), hlisten d.data⟩
    · exact ⟨_, invokeHandler_dataReq hC' hd' hi (by rw [hp]; rfl), hreply⟩
    · exact ⟨_, invokeHandler_dataReq hC' hd' hi (by rw [hp]; rfl), hreply⟩
  · have hother : d.phase.code ∉ keyedPhases.map Status.code := by
      revert hkey; cases d.phase <;> decide
    rw [stepTurn_handler_of_other hC hd he hother]
    exact ⟨_, invokeHandler_other hC' hd' hi hen, handled_recovering hen hie⟩

end

/-- Settles O49: what `Handled` says, and with `INT = 0` the interrupt is not taken again. -/
theorem handlerClearsTheEventOnce : Obligations.HandlerClearsTheEventOnce := by
  intro s k d hC hd he
  obtain ⟨d', hstep, hint, hen, hie, hea, hgie, hframe⟩ := stepTurn_handler_handled hC hd he
  have hoff : d'.handlerEnabled = false :=
    Bool.eq_false_iff.mpr fun h => by simp [d'.handlerEnabled_iff.mp h] at hint
  refine ⟨d', hstep, hint, ?_, ?_, hgie, hen, hie, hea, ?_, ?_, ?_, ?_, ?_, ?_, ?_, hoff⟩ <;>
    rw [hframe]

end Sys2Proof.Machine

namespace Sys2Proof.Machine

/-! ### The foreground's protocol (R290) and its races (R291, R292) -/

section
variable {d : Device} (hr : d.role = .slave)
include hr

theorem hostAct_poll (hf : d.fg = .poll) :
    hostAct .poll d =
      { d with
        ret := .byte d.cell
        fg := if d.cell = d.par.reqMarker then .consume else .poll } := by
  simp [hostAct, hr, hf, Device.returning]

theorem hostAct_consume (hf : d.fg = .consume) :
    hostAct .consume d = { d with cell := 0x00, fg := .refresh } := by
  simp [hostAct, hr, hf, writeCell]

theorem hostAct_refresh (hf : d.fg = .refresh) (v : Byte) :
    hostAct (.refresh v) d = { d with resp := v, fg := .poll } := by
  simp [hostAct, hr, hf, writeResp]

end

section
variable {s : State} {k : Nat} {d : Device} (hd : s.devs[k]? = some d) (hh : d.halted .host = false)
include hd hh

/-- A host's turn after another turn of the device. -/
theorem stepTurn_host_after {who : Issuer} {d1 d2 : Device} {a : HostAct} (hf : d1.faults = d.faults)
    (ha : hostAct a d1 = d2) : stepTurn (.host k a) (s.after k who d1) = .next (s.after k .host d2) := by
  have hh1 : d1.halted .host = false := by rwa [Device.halted, hf]
  rw [stepTurn_host (State.after_get hd who d1) hh1, ha, State.after_after]

/-- From `poll` on the marker the protocol comes back to `poll` (R290). -/
theorem runTurns_protocol (hr : d.role = .slave) (hf : d.fg = .poll) (hm : d.cell = d.par.reqMarker)
    (v : Byte) :
    runTurns [.host k .poll, .host k .consume, .host k (.refresh v)] s =
      .next (s.after k .host { d with ret := .byte d.cell, cell := 0x00, resp := v }) := by
  let d1 : Device := { d with ret := .byte d.cell, fg := .consume }
  let d2 : Device := { d1 with cell := 0x00, fg := .refresh }
  have hpoll : hostAct .poll d = d1 := by rw [hostAct_poll hr hf, if_pos hm]
  have hconsume : hostAct .consume d1 = d2 := hostAct_consume (d := d1) hr rfl
  have hrefresh : hostAct (.refresh v) d2 = { d2 with resp := v, fg := .poll } :=
    hostAct_refresh (d := d2) hr rfl v
  rw [runTurns_cons_next (stepTurn_host hd hh .poll), hpoll,
    runTurns_cons_next (stepTurn_host_after (d1 := d1) hd hh rfl hconsume),
    runTurns_cons_next (stepTurn_host_after (d1 := d2) hd hh rfl hrefresh), ← hf]
  rfl

end

/-- Settles O51: the three actions in turn, and each race as a handler's turn before the host's. -/
theorem foregroundConsumesTheRequestAndRacesAreAdmitted :
    Obligations.ForegroundConsumesTheRequestAndRacesAreAdmitted := by
  refine ⟨fun s k d v hd hh hr => ⟨fun hf hm => ⟨?_, runTurns_protocol hd hh hr hf hm v⟩, fun hf hm => ?_⟩,
    fun s k d v hd hh hC hr he => ?_⟩
  · rw [stepTurn_host hd hh, hostAct_poll hr hf, if_pos hm]
  · rw [stepTurn_host hd hh, hostAct_poll hr hf, if_neg hm, ← hf]
  · obtain ⟨-, hi, -, hen, -⟩ := d.handlerEnabled_iff.mp he
    refine ⟨fun hp hf => ?_, fun hp hf => ?_⟩
    · let d1 := returnFromInterrupt (writeCell d.data d).listening
      refine ⟨d1, _, ?_, rfl, stepTurn_host_after hd hh rfl (hostAct_consume (d := d1) hr hf), rfl, rfl⟩
      rw [stepTurn_handler_of_key hC hd he rfl hp]
      exact invokeHandler_dataRx (s := s.focus k .handler) hC hd hi hen (.inl (by rw [hp]; rfl))
    · let d1 := returnFromInterrupt (d.loaded d.resp).replying
      refine ⟨d1, _, ?_, stepTurn_host_after hd hh rfl (hostAct_refresh (d := d1) hr hf v), rfl, rfl⟩
      rw [stepTurn_handler_of_key hC hd he rfl hp]
      exact invokeHandler_dataReq (s := s.focus k .handler) hC hd hi (by rw [hp]; rfl)

/-! ### A step runs what was fetched (R91, R108, R282, R350) -/

section
variable {s : State} {k : Nat} {d : Device} (hd : s.devs[k]? = some d)
include hd

/-- A control word at the offset of `CTRL` is run as its instruction. -/
theorem stepTurn_writeCtrl_decoded (hh : d.halted .host = false) (hR : s.cfg.chip.offsets.WellFormed)
    {v : Byte} {i : Instr} (hi : decodeCtrl s.cfg.chip.ctrl v = .ok i) :
    stepTurn (.direct k (.write s.cfg.chip.offsets.ctrl v)) s = exec i (s.focus k .host) := by
  obtain ⟨-, -, -, -, hoff⟩ := regAt_of_wellFormed hR
  rw [stepTurn_writeCtrl hd hh hoff, writeCtrl, State.focus_cfg, hi]

end

/-! ### A table word in the place where the next step fetches it (log entry 16) -/

/-- An agent without a fault of its own may move. -/
theorem Device.halted_unhalt (d : Device) (a : Agent) : (d.unhalt a).halted a = false := by
  simp [Device.halted, Device.unhalt]

theorem Device.handlerEnabled_withPendingKey (T : StatusTable) (key : Byte) (d : Device) :
    (d.withPendingKey T key).handlerEnabled = true :=
  (Device.handlerEnabled_iff _).mpr ⟨rfl, rfl, rfl, rfl, rfl, d.halted_unhalt .handler⟩

/-- Every masked code has a name in R97's table. -/
theorem code_nameOf_of_masked {key : Byte} (h : isMaskedCode standardStat key = true) :
    ((standardStatus.nameOf key).getD .noInfo).code = key := by
  revert key
  decide

/-- A table word is read as a handler key only if it is a masked code (log entry 15). -/
theorem masked_of_tableWord {nbits w : Nat} {key : Byte} (h : tableWord nbits w = some (.evt key)) :
    isMaskedCode standardStat key = true := by
  have hnamed : ∀ v, (namedKeys standardStatus).contains v = true → isMaskedCode standardStat v = true := by
    decide
  unfold tableWord tableByte at h
  split at h
  · cases h
  · split at h
    · cases h
      exact hnamed _ ‹_›
    · split at h
      · cases h
      · split at h <;> cases h
        assumption
  · cases h
    rfl
  · cases h

/-- The system with the moving device changed before its turn. -/
def State.prepared (s : State) (f : Device → Device) : State := { s with devs := s.devs.modify s.cur f }

/-- The next step of `State.withCodeWord` runs the word's instruction. -/
theorem step_withCodeWord {s : State} {d : Device} {c : CodeWord} {i : Instr} (hC : s.standard)
    (hd : s.devs[s.cur]? = some d) (hi : decode standardChip c = .ok i)
    (hkey : ∀ key, c = .evt key → isMaskedCode standardStat key = true) :
    ∃ f who, step (s.withCodeWord c) = exec i ((s.prepared f).focus s.cur who) := by
  have hprep : ∀ f, (s.prepared f).devs[s.cur]? = some (f d) := by simp [State.prepared, hd]
  cases c with
  | op w =>
    have hstep := stepTurn_issue_host (hprep (Device.unhalt .host)) (d.halted_unhalt .host) w
    rw [show decodeOp w = .ok i from hi] at hstep
    exact ⟨_, .host, hstep⟩
  | ctrl v =>
    have hR : s.cfg.chip.offsets.WellFormed := by rw [hC]; exact standardChip_wellFormed.2.2.2.1
    exact ⟨_, .host, stepTurn_writeCtrl_decoded (hprep (Device.unhalt .host)) (d.halted_unhalt .host) hR
      (by rw [← hi, ← hC]; rfl)⟩
  | evt key =>
    obtain rfl : decodeEvt standardStatus key = i := by simpa [decode] using hi
    let f := Device.withPendingKey s.cfg.chip.status key
    have hphase : (f d).phase.code = key := by
      show ((s.cfg.chip.status.nameOf key).getD .noInfo).code = key
      rw [hC]
      exact code_nameOf_of_masked (hkey key rfl)
    have hstep := stepTurn_handler_standard (s := s.prepared f) hC (hprep f)
      (d.handlerEnabled_withPendingKey _ key)
    rw [hphase] at hstep
    exact ⟨f, .handler, hstep⟩

/-- Settles O11: each way to fetch, and the next step of the placed word. -/
theorem stepRunsTheDecodedInstruction : Obligations.StepRunsTheDecodedInstruction := by
  refine ⟨fun s k d hd => ⟨fun w i hh hi => ?_, fun w i he hi => ?_, fun v i hh hR hi => ?_, fun he => ?_⟩,
    fun s d nbits w i hC hd hi => ?_⟩
  · rw [stepTurn_issue_host hd hh, hi]
    rfl
  · rw [stepTurn_issue_handler hd he, hi]
    rfl
  · exact stepTurn_writeCtrl_decoded hd hh hR hi
  · exact stepTurn_handler hd he
  · unfold decodeTableWord at hi
    cases hc : tableWord nbits w with
    | none => simp [hc] at hi
    | some c =>
      have hdec : decode standardChip c = .ok i := by
        rw [hc] at hi
        cases hx : decode standardChip c <;> simp_all [Except.toOption]
      obtain ⟨f, who, hstep⟩ := step_withCodeWord hC hd hdec fun key hk =>
        masked_of_tableWord (hk ▸ hc)
      have hplaced : s.withFetchWord nbits w = s.withCodeWord c := by simp only [State.withFetchWord, hc]
      exact ⟨(s.prepared f).focus s.cur who, hplaced ▸ hstep, rfl, rfl, rfl, rfl, by simp [State.prepared]⟩

end Sys2Proof.Machine

namespace Sys2Proof.Machine

/-! ### `RESP` stays unless a host writes it (R39, R68) -/

/-- A turn that is no direct access, no reset, no host's write of `RESP` and no operation that a handler
issues outside its own step. -/
structure Turn.IsOrdinary (t : Turn) : Prop where
  direct : t.isDirect = false
  reset : t.isReset = false
  resp : t.writesResp = false
  issue : t.isHandlerIssue = false

theorem readData_resp (d : Device) : (readData d).2.resp = d.resp := by
  unfold readData
  split <;> rfl

theorem writeData_resp (v : Byte) (d : Device) : (writeData v d).resp = d.resp := by
  unfold writeData
  split <;> rfl

section
variable {cfg : Config} {d d' : Device}

/-- A hold goes on or stays where it is (R202, R245). -/
theorem hold_endsWith {P : Device → Prop} {next : Stage} (h : P d)
    (hn : d.ctrl.int = true → P (d.goto next)) : (hold next d).EndsWith P := by
  unfold hold
  split
  · exact hn ‹_›
  · exact h

/-- A read of a latch goes on with its value or leaves the device as it is (R41). -/
theorem withLatch_endsWith {P : Device → Prop} {α : Type} {o : Option α} {f : α → Eff} (h : P d)
    (hf : ∀ a, o = some a → (f a).EndsWith P) : (withLatch o f d).EndsWith P := by
  cases o with
  | some a => exact hf a rfl
  | none => exact h

/-- A control write, and after it an update that leaves `RESP`. -/
theorem ctrlWrite_map_keepsResp {v : Byte} {f : Device → Device} (hf : ∀ x, (f x).resp = x.resp) :
    ((ctrlWrite cfg v d).map f).EndsWith (·.resp = d.resp) :=
  ctrlWrite_map_endsWith rfl fun x hw => by rw [hf, ctrlWrite_frame cfg d hw]

theorem runStage_keepsResp : (runStage cfg d).EndsWith (·.resp = d.resp) := by
  unfold runStage
  cases d.stage with
  | configureMaster1 => exact .ite trivial (.ite trivial (.ite trivial (.ite trivial rfl)))
  | configureSlave1 => exact .ite trivial (.ite trivial (.ite trivial rfl))
  | setAck1 => exact .ite trivial rfl
  | configureMaster4 | configureSlave3 | start1 | stop1 | writeByte2 | readByte1 | armForReply1 | setAck2
  | clearEvent1 | recover1 | wcStartGo | wcAddrGo | wcDataGo | wcFinish | rrStartGo | rrAddrGo
  | rrReadGo => exact ctrlWrite_map_keepsResp fun _ => rfl
  | start2 | writeByte3 | readByte2 | wcStartWait | wcAddrWait | wcDataWait | rrStartWait | rrAddrWait
  | rrReadWait => exact hold_endsWith rfl fun _ => rfl
  | wcAbort | rrFinish | rrAbort =>
    exact withLatch_endsWith rfl fun _ _ => ctrlWrite_map_keepsResp fun _ => rfl
  | loadData1 | writeByte1 => exact writeData_resp _ d
  | wcAddrLoad | wcDataLoad | rrAddrLoad => exact withLatch_endsWith rfl fun _ _ => writeData_resp _ d
  | readByte4 | readData1 | rrReadTest => exact readData_resp d
  | idle | configureMaster2 | configureMaster3 | configureSlave2 | writeByte4 | readByte3 | readStatus1
  | wcIssue | rrIssue | wcAddrTest | wcDataTest | rrAddrTest => rfl

/-- A handler's primitive outside its invocation. -/
theorem line_keepsResp {i : Instr} {op : OpKind} {line : Device → Eff} (hl : IsLine cfg i op line) :
    (line d).EndsWith (·.resp = d.resp) := by
  have hwrite : ∀ v, (ctrlWrite cfg v d).EndsWith (·.resp = d.resp) := fun v =>
    ctrlWrite_endsWith rfl fun x hw => by rw [ctrlWrite_frame cfg d hw]
  cases hl with
  | stop | armForReply | clearEvent | recover => exact hwrite _
  | loadData b => exact writeData_resp b d
  | readData => exact readData_resp d
  | readStatus => rfl

theorem handlerInvocation_keepsResp {action : Device → Eff} (ha : IsAction cfg action) :
    (handlerInvocation action d).EndsWith (·.resp = d.resp) := by
  have hwrite : ∀ {v} {x : Device}, x.resp = d.resp → (ctrlWrite cfg v x).EndsWith (·.resp = d.resp) :=
    fun hx => ctrlWrite_endsWith hx fun y hw => by rw [ctrlWrite_frame cfg _ hw]; exact hx
  have hact : (action (takeInterrupt d)).EndsWith (·.resp = d.resp) := by
    cases ha with
    | addrW | other => exact hwrite rfl
    | dataRx => exact hwrite (readData_resp (takeInterrupt d))
    | dataReq => exact hwrite (writeData_resp _ (takeInterrupt d))
  exact hact.map fun _ hx => hx

theorem hostAct_keepsResp {k : Nat} (a : HostAct) (hw : (Turn.host k a).writesResp = false) :
    (hostAct a d).resp = d.resp := by
  cases a with
  | respWrite | refresh => cases hw
  | respWriteWide => rfl
  | readOutcome =>
    simp only [hostAct]
    split
    · rfl
    · split <;> rfl
  | cellRead | setGie | cellWrite | poll | consume =>
    simp only [hostAct]
    split_ifs <;> rfl

theorem Device.XcvrEffect.resp (h : d.XcvrEffect d') : d'.resp = d.resp := by
  cases h <;> rfl

/-- The effect keeps `RESP`, whoever settles it. -/
theorem Eff.EndsWith.resp {e : Eff} {a : Agent} (h : e.EndsWith (·.resp = d.resp)) :
    (e.settle a d).resp = d.resp :=
  h.settle (fun _ _ hx => hx) fun _ => rfl

theorem Move.resp {s : State} {k : Nat} {t : Turn} (hm : Move s k d t d') (ht : t.IsOrdinary) :
    d'.resp = d.resp := by
  obtain ⟨hdirect, hreset, hw, -⟩ := ht
  cases hm with
  | stay | illegal | jointFault => rfl
  | issue who w i _ _ _ hop =>
    cases hop with
    | refused => rfl
    | line1 op st => exact (runStage_keepsResp (d := d.goto st)).settle (fun _ _ hx => hx) fun _ => rfl
    | handlerLine op line hl => exact (line_keepsResp hl).resp
  | engine => exact runStage_keepsResp.resp
  | handler action ha => exact (handlerInvocation_keepsResp ha).resp
  | hostAct a => exact hostAct_keepsResp a hw
  | directRefused | directRead | directWrite | directCtrl => cases hdirect
  | xcvr code b => exact (xcvrStep_effect _ code b d).resp
  | jointMaster _ _ _ _ _ hj => exact hj.effect.resp
  | jointSlave _ _ _ _ hj => exact hj.effect.resp
  | reset | resetAll => cases hreset

end
end Sys2Proof.Machine

namespace Sys2Proof.Machine

/-! ### A slave under the reader's eyes (R294, R295) -/

/-- From `d` to `d'` a slave keeps its `RESP`, its own address and its reply to the master that reads it. -/
structure Device.KeepsReply (O : OadrLayout) (d d' : Device) : Prop where
  resp : d'.resp = d.resp
  addr : d'.ownAddr O = d.ownAddr O
  reply : d.RepliesWithResp → d'.RepliesWithResp

section
variable {O : OadrLayout} {d d' : Device}

theorem Device.KeepsReply.refl (d : Device) : d.KeepsReply O d := ⟨rfl, rfl, id⟩

theorem IsLine1.of_configureSlave {i : Instr} {st : Stage} (h : IsLine1 i .configureSlave st) :
    ∃ a, st = .configureSlave1 a := by
  cases h
  exact ⟨_, rfl⟩

theorem contextCheck_host_slave {busRole : Option Role} {op : OpKind} (hr : d.role = .slave)
    (hc : contextCheck busRole .host op d = none) : op = .configureSlave := by
  by_contra hne
  simp only [contextCheck, hr, hne, if_false] at hc
  split at hc <;> cases hc

/-- `configure_slave` changes nothing in its first line but the stage (R201). -/
theorem issueLine1_configureSlave_keepsReply (cfg : Config) (a : Addr) (d : Device) :
    d.KeepsReply O (issueLine1 cfg (.configureSlave1 a) d) := by
  have hrun : runStage cfg (d.goto (.configureSlave1 a)) =
      configureSlaveLine1 a (d.goto (.configureSlave1 a)) := rfl
  rw [issueLine1, hrun, configureSlaveLine1]
  split_ifs <;> exact ⟨rfl, rfl, id⟩

/-- An addressed transmitter stops nothing and is on (R24, R148). -/
theorem Device.RepliesWithResp.on (h : d.RepliesWithResp) (hx : d.XcvrInv) :
    d.ctrl.en = true ∧ d.ctrl.sto = false := by
  obtain ⟨hp, -⟩ := h
  exact xcvrInv_addressed hx (by rw [hp]; rfl)

/-- The last line of `configure_slave` on a slave that is on leaves the bus as it is (R142). -/
theorem configureSlave3_keepsReply {cfg : Config} (hC : cfg.chip = standardChip) (hx : d.XcvrInv) :
    ((ctrlWrite cfg cfg.chip.words.configureSlave d).map
      fun x => ({ x with role := .slave } : Device).goto .idle).EndsWith (d.KeepsReply O) := by
  refine ctrlWrite_map_endsWith (.refl d) fun x hw => ⟨?_, ?_, fun h => ?_⟩
  · rw [ctrlWrite_frame cfg d hw]; rfl
  · rw [ctrlWrite_frame cfg d hw]; rfl
  · obtain ⟨hen, hsto⟩ := h.on hx
    rw [hC, standardChip_words, configureSlave_word, ctrlWrite_configWord hC true true true hsto,
      configCmd_on _ rfl, hen] at hw
    cases hw
    exact h

/-- The engine of a slave runs a `configure_slave` of its own address (R310). -/
theorem runStage_slave_keepsReply {cfg : Config} (hC : cfg.chip = standardChip) (hx : d.XcvrInv)
    (hi : d.RoleInv) (hr : d.role = .slave) (hs : d.IsSlaveOfBus cfg.chip.oadr) :
    (runStage cfg d).EndsWith (d.KeepsReply cfg.chip.oadr) := by
  obtain ⟨-, -, -, haddr, hoadr⟩ := hs
  obtain ⟨-, hslave, -⟩ := hi
  have hstage := hslave hr
  unfold runStage
  cases hst : d.stage with
  | idle => exact .refl d
  | configureSlave2 a =>
    obtain rfl := haddr a (.inr hst)
    have hown : oadr8 cfg.chip.oadr d.par.slaveAddr = d.oadr := (hoadr (.inr hr)).symm
    exact ⟨rfl, congrArg (fun v : Byte => v.extractLsb' cfg.chip.oadr.addrLo 7) hown, id⟩
  | configureSlave3 => exact configureSlave3_keepsReply hC hx
  | _ => simp [hst, Stage.isConfigureSlave] at hstage

theorem device_of_stepTurn {s s' : State} {t : Turn} {k : Nat} {who : Issuer} {x : Device}
    (hd : s.devs[k]? = some d) (hstep : stepTurn t s = .next (s.after k who x))
    (h : stepTurn t s = .next s') (hd' : s'.devs[k]? = some d') : d' = x := by
  obtain rfl : s.after k who x = s' := by simpa [hstep] using h
  exact Option.some.inj (hd'.symm.trans (State.after_get hd who x))

/-- A handler's turn: the slave addressed for reading sends its `RESP` (R285). -/
theorem stepTurn_handler_keepsReply {s s' : State} {k : Nat} (hC : s.standard) (hd : s.devs[k]? = some d)
    (h : stepTurn (.handler k) s = .next s') (hd' : s'.devs[k]? = some d') : d.KeepsReply O d' := by
  cases he : d.handlerEnabled with
  | false =>
    have hstep := stepTurn_handler_off hd he
    rw [← State.after_self hd] at hstep
    obtain rfl := device_of_stepTurn hd hstep h hd'
    exact .refl d'
  | true =>
    obtain ⟨-, hi, -⟩ := d.handlerEnabled_iff.mp he
    by_cases hp : d.phase = .stSlaAck
    · have hstep := (stepTurn_handler_of_key hC hd he rfl hp).trans
        (invokeHandler_dataReq (s := s.focus k .handler) hC hd hi (by rw [hp]; rfl))
      obtain rfl := device_of_stepTurn hd hstep h hd'
      exact ⟨rfl, rfl, fun _ => ⟨hp, .inr ⟨rfl, rfl, rfl⟩⟩⟩
    · obtain ⟨x, hstep, hx⟩ := stepTurn_handler_handled hC hd he
      obtain rfl := device_of_stepTurn hd hstep h hd'
      exact ⟨by rw [hx.frame], by rw [hx.frame]; rfl, fun hreply => absurd hreply.1 hp⟩

/-- An ordinary turn that is no joint step. -/
theorem keepsReply_of_turn {s s' : State} {k : Nat} {t : Turn} (hC : s.standard) (hs : s.Inv)
    (hb : s.cfg.busMode = .closedBus) (hd : s.devs[k]? = some d) (hr : d.role = .slave)
    (hbus : d.IsSlaveOfBus s.cfg.chip.oadr) (ht : t.IsOrdinary) (hj : t ≠ .joint)
    (h : stepTurn t s = .next s') (hd' : s'.devs[k]? = some d') : d.KeepsReply s.cfg.chip.oadr d' := by
  obtain ⟨hx, -, hi, -⟩ := hs.device hd
  obtain ⟨-, -, -, hmoves⟩ := turn_moves h
  obtain ⟨e, he, hm⟩ := hmoves k d hd
  obtain rfl : d' = e := Option.some.inj (hd'.symm.trans he)
  have hresp := hm.resp ht
  obtain ⟨hdirect, hreset, -, hissue⟩ := ht
  cases hm with
  | stay => exact .refl d
  | illegal => exact ⟨rfl, rfl, id⟩
  | issue who w i _ _ _ hop =>
    cases hop with
    | refused r => exact ⟨rfl, rfl, id⟩
    | line1 op st hst _ hc =>
      obtain rfl := contextCheck_host_slave hr hc
      obtain ⟨a, rfl⟩ := hst.of_configureSlave
      exact issueLine1_configureSlave_keepsReply s.cfg a d
    | handlerLine op line hl hwho => subst hwho; cases hissue
  | engine =>
    exact (runStage_slave_keepsReply hC hx hi hr hbus).settle
      (fun _ _ hx => ⟨hx.resp, hx.addr, hx.reply⟩) fun _ => ⟨rfl, rfl, id⟩
  | handler => exact stepTurn_handler_keepsReply hC hd h hd'
  | hostAct a =>
    refine ⟨hresp, by rw [hostAct_frame]; rfl, fun hreply => ?_⟩
    rw [hostAct_frame, Device.RepliesWithResp]
    dsimp only
    rw [hresp]
    exact hreply
  | directRefused | directRead | directWrite | directCtrl => cases hdirect
  | xcvr code b ho => rw [hb] at ho; cases ho
  | jointMaster | jointSlave | jointFault => exact absurd rfl hj
  | reset | resetAll => cases hreset

end
end Sys2Proof.Machine

namespace Sys2Proof.Machine

/-! ### A `read_response` against the slave it reads (R247, R318) -/

/-- The stages of which `ReadInv` says something. -/
def Stage.isReading : Stage → Bool
  | .rrAddrGo | .rrAddrWait | .rrAddrTest | .rrReadGo | .rrReadWait | .rrReadTest | .rrFinish => true
  | _ => false

section
variable {s s' : State} {m m' : Device} {cfg : Config}

theorem readInv_of_stage (h : m.stage.isReading = false) : s.ReadInv m := by
  unfold State.ReadInv
  split <;> simp_all [Stage.isReading]

/-- The bus and the slaves of `s'` are those of `s` in the eyes of a master that reads. -/
structure State.KeepsReplies (s s' : State) : Prop where
  oadr : s'.cfg.chip.oadr = s.cfg.chip.oadr
  target : s'.target = s.target
  slaves : ∀ j d, s.devs[j + 1]? = some d →
    ∃ d', s'.devs[j + 1]? = some d' ∧ d.KeepsReply s.cfg.chip.oadr d'

theorem State.KeepsReplies.addresses (hk : s.KeepsReplies s') (h : s.Addresses m) : s'.Addresses m := by
  obtain ⟨j, d, ht, hd, ha, hreply⟩ := h
  obtain ⟨d', hd', hkeep⟩ := hk.slaves j d hd
  exact ⟨j, d', hk.target.trans ht, hd', by rw [hk.oadr, hkeep.addr, ha], hkeep.reply hreply⟩

/-- Who has the address and which `RESP` it has does not hang on the bus. -/
theorem State.IsRespFor.mono {b : Byte} (hO : s'.cfg.chip.oadr = s.cfg.chip.oadr)
    (hk : ∀ j d, s.devs[j + 1]? = some d → ∃ d', s'.devs[j + 1]? = some d' ∧ d'.resp = d.resp ∧
      d'.ownAddr s.cfg.chip.oadr = d.ownAddr s.cfg.chip.oadr) (h : s.IsRespFor m b) : s'.IsRespFor m b := by
  obtain ⟨j, d, hd, ha, hb⟩ := h
  obtain ⟨d', hd', hresp, haddr⟩ := hk j d hd
  exact ⟨j, d', hd', by rw [hO, haddr, ha], by rw [hresp, hb]⟩

theorem State.KeepsReplies.isRespFor (hk : s.KeepsReplies s') {b : Byte} (h : s.IsRespFor m b) :
    s'.IsRespFor m b :=
  h.mono hk.oadr fun j d hd => (hk.slaves j d hd).imp fun _ h' => ⟨h'.1, h'.2.resp, h'.2.addr⟩

theorem State.KeepsReplies.readInv (hk : s.KeepsReplies s') (h : s.ReadInv m) : s'.ReadInv m := by
  by_cases hst : m.stage.isReading = false
  · exact readInv_of_stage hst
  · unfold State.ReadInv at h ⊢
    cases hs : m.stage <;> simp only [hs] at h hst ⊢
    case rrAddrGo => exact h
    case rrAddrWait => exact ⟨fun hi hp => hk.addresses (h.1 hi hp), h.2⟩
    case rrAddrTest => exact fun hp => hk.addresses (h hp)
    case rrReadGo => exact hk.addresses h
    case rrReadWait => exact ⟨fun hi => hk.isRespFor (h.1 hi), fun hi => hk.addresses (h.2 hi)⟩
    case rrReadTest => exact hk.isRespFor h
    case rrFinish =>
      obtain ⟨b, hb, hr⟩ := h
      exact ⟨b, hb, hk.isRespFor hr⟩

/-! ### The master's engine (R247) -/

theorem readInv_done (h : m.stage.isReading = false) : (Eff.done m).EndsWith s.ReadInv :=
  readInv_of_stage h

/-- A line that is done with no reading stage next, or leaves the device as it was. -/
theorem ctrlWrite_map_readInv {v : Byte} {f : Device → Device} (h : s.ReadInv m)
    (hf : ∀ x, (f x).stage.isReading = false) : ((ctrlWrite cfg v m).map f).EndsWith s.ReadInv :=
  ctrlWrite_map_endsWith h fun x _ => readInv_of_stage (hf x)

/-- The stages of a `read_response` from its address byte on. -/
theorem runStage_reading_readInv (hC : cfg.chip = standardChip) (hcl : m.ClosedTransInv)
    (h : s.ReadInv m) (hst : m.stage = .rrAddrLoad ∨ m.stage.isReading = true) :
    (runStage cfg m).EndsWith s.ReadInv := by
  have hinv := h
  unfold State.ReadInv at h
  unfold Device.ClosedTransInv at hcl
  cases hs : m.stage <;> simp only [hs] at h hcl hst
  case rrAddrLoad =>
    simp only [runStage, hs]
    refine withLatch_endsWith hinv fun a ha => ?_
    rw [loadThen, writeData_of_int _ m hcl.1]
    exact ⟨a, ha, rfl⟩
  case rrAddrGo =>
    obtain ⟨hi, hp, -⟩ := hcl
    obtain ⟨a, ha, hdata⟩ := h
    rw [runStage_of_go hC hs (show (.rrAddrGo, 0x84, .rrAddrWait) ∈ goStages by decide),
      ctrlThen_done (ctrlWrite_byteStep hC hi (by simp [Status.takesByte, hp]))]
    exact ⟨nofun, fun _ => ⟨a, ha, by simp [Device.byteStep, hp, hdata]⟩⟩
  case rrReadGo =>
    obtain ⟨hi, hp⟩ := hcl
    rw [runStage_of_go hC hs (show (.rrReadGo, 0x84, .rrReadWait) ∈ goStages by decide),
      ctrlThen_done (ctrlWrite_byteStep hC hi (by rw [hp]; rfl))]
    exact ⟨nofun, fun _ => h⟩
  case rrAddrWait =>
    rw [runStage_of_hold hs (show (_, .rrAddrTest) ∈ holdStages by decide)]
    exact hold_endsWith hinv h.1
  case rrReadWait =>
    rw [runStage_of_hold hs (show (_, .rrReadTest) ∈ holdStages by decide)]
    exact hold_endsWith hinv h.1
  case rrAddrTest =>
    rw [runStage_of_test hs (.tail _ (.tail _ (.head _))), testCode_of_int hC hcl.1]
    split
    · next hmem => exact h (by simpa [accRrAddr] using hmem)
    · exact readInv_done rfl
  case rrReadTest =>
    rw [runStage_of_readTest hs, readTest_of_int hC hcl.1]
    split
    · exact ⟨_, rfl, h⟩
    · exact readInv_done rfl
  case rrFinish =>
    simp only [runStage, hs]
    exact withLatch_endsWith hinv fun _ _ => ctrlWrite_map_readInv hinv fun _ => rfl
  all_goals simp [Stage.isReading] at hst

/-- Every stage of the engine. -/
theorem runStage_readInv (hC : cfg.chip = standardChip) (hcl : m.ClosedTransInv) (h : s.ReadInv m) :
    (runStage cfg m).EndsWith s.ReadInv := by
  by_cases hst : m.stage = .rrAddrLoad ∨ m.stage.isReading = true
  · exact runStage_reading_readInv hC hcl h hst
  · unfold runStage
    cases hs : m.stage with
    | rrAddrLoad | rrAddrGo | rrAddrWait | rrAddrTest | rrReadGo | rrReadWait | rrReadTest | rrFinish =>
      simp [hs, Stage.isReading] at hst
    | idle => exact h
    | configureMaster1 => exact .ite trivial (.ite trivial (.ite trivial (.ite trivial (readInv_done rfl))))
    | configureSlave1 => exact .ite trivial (.ite trivial (.ite trivial (readInv_done rfl)))
    | setAck1 => exact .ite trivial (readInv_done rfl)
    | configureMaster4 | configureSlave3 | start1 | stop1 | writeByte2 | readByte1 | armForReply1 | setAck2
    | clearEvent1 | recover1 | wcStartGo | wcAddrGo | wcDataGo | wcFinish | rrStartGo =>
      exact ctrlWrite_map_readInv h fun _ => rfl
    | start2 | writeByte3 | readByte2 | wcStartWait | wcAddrWait | wcDataWait | rrStartWait =>
      exact hold_endsWith h fun _ => readInv_of_stage rfl
    | wcAbort | rrAbort => exact withLatch_endsWith h fun _ _ => ctrlWrite_map_readInv h fun _ => rfl
    | wcAddrLoad | wcDataLoad => exact withLatch_endsWith h fun _ _ => readInv_done rfl
    | wcAddrTest | wcDataTest =>
      refine readInv_done (m := Device.goto _ _) ?_
      split <;> rfl
    | loadData1 | writeByte1 | readByte4 | readData1 | configureMaster2 | configureMaster3
    | configureSlave2 | writeByte4 | readByte3 | readStatus1 | wcIssue | rrIssue => exact readInv_done rfl

/-- An ordinary move of the master of a closed bus that is no joint step. -/
theorem Move.master_readInv {k : Nat} {t : Turn} (hm : Move s k m t m') (hC : s.standard)
    (hb : s.cfg.busMode = .closedBus) (hr : m.role = .master) (ht : t.IsOrdinary)
    (hj : t ≠ .joint) (hcl : m.ClosedTransInv) (h : s.ReadInv m) : s.ReadInv m' := by
  obtain ⟨hdirect, hreset, -, -⟩ := ht
  cases hm with
  | stay | illegal => exact h
  | issue who w i _ _ _ hop =>
    cases hop with
    | refused r => exact h
    | line1 op st hst =>
      have hline : (m.goto st).stage.isReading = false ∧ (m.goto st).ClosedTransInv := by
        cases hst <;> exact ⟨rfl, trivial⟩
      exact (runStage_readInv hC hline.2 (readInv_of_stage hline.1)).settle (fun _ _ hx => hx) fun _ => h
    | handlerLine op line hl hwho hc =>
      rw [(contextCheck_handler_none hc).1] at hr
      cases hr
  | engine => exact (runStage_readInv hC hcl h).settle (fun _ _ hx => hx) fun _ => h
  | handler action ha he =>
    rw [(m.handlerEnabled_iff.mp he).1] at hr
    cases hr
  | hostAct a => rw [hostAct_frame]; exact h
  | directRefused | directRead | directWrite | directCtrl => cases hdirect
  | xcvr code b ho => rw [hb] at ho; cases ho
  | jointMaster | jointSlave | jointFault => exact absurd rfl hj
  | reset | resetAll => cases hreset

end

/-! ### The target of the bus (R311) -/

/-- An instruction is a step of the moving device. -/
theorem exec_eq_onCur (i : Instr) (s : State) : ∃ f, exec i s = onCur s f := by
  cases i <;> exact ⟨_, rfl⟩

theorem onCur_target {s t : State} {f : Device → Device} (h : onCur s f = .next t) :
    t.target = s.target := by
  obtain ⟨d, -, rfl⟩ := onCur_next h
  rfl

theorem exec_target {i : Instr} {s t : State} (h : exec i s = .next t) : t.target = s.target := by
  obtain ⟨f, hf⟩ := exec_eq_onCur i s
  exact onCur_target (hf ▸ h)

theorem whenCur_target {cond : Device → Bool} {run : State → Result} {s t : State}
    (hrun : run s = .next t → t.target = s.target) (h : whenCur cond run s = .next t) :
    t.target = s.target := by
  obtain ⟨d, -, ⟨-, h⟩ | rfl⟩ := whenCur_next h
  · exact hrun h
  · rfl

/-- Of the ordinary turns only a joint step moves the target (R311). -/
theorem stepTurn_target {t : Turn} {s s' : State} (ht : t.IsOrdinary) (hj : t ≠ .joint)
    (h : stepTurn t s = .next s') : s'.target = s.target := by
  obtain ⟨hdirect, hreset, -, -⟩ := ht
  cases t with
  | issue k who w =>
    refine whenCur_target (s := s.focus k who) (fun hrun => ?_) h
    unfold runDecoded at hrun
    split at hrun
    · exact exec_target hrun
    · exact onCur_target hrun
  | host k a =>
    replace h : hostTurn a (s.focus k .host) = .next s' := h
    unfold hostTurn at h
    exact whenCur_target (s := s.focus k .host) onCur_target h
  | engine k => exact onCur_target (s := s.focus k .host) h
  | xcvr k code b =>
    replace h : xcvrTurn code b (s.focus k .host) = .next s' := h
    unfold xcvrTurn at h
    split at h
    · exact onCur_target (s := s.focus k .host) h
    · cases h; rfl
  | handler k =>
    replace h : handlerTurn (s.focus k .handler) = .next s' := h
    unfold handlerTurn at h
    split at h
    · cases h
    · dsimp only at h
      split at h
      · exact exec_target (s := s.focus k .handler) h
      · cases h; rfl
  | joint => exact absurd rfl hj
  | direct => cases hdirect
  | reset | resetAll => cases hreset

end Sys2Proof.Machine

namespace Sys2Proof.Machine

/-! ### The joint steps of a read (R315, R317) -/

section
variable {O : OadrLayout} {m : BusMove}

theorem jointMove_of_address {t : Byte} (hp : m.master.pend = .byte) (ha : m.master.phase.isAddr = true)
    (ht : m.master.txbyte = some t) : jointMove O m = some (jointAddress O t m) := by
  simp [jointMove, hp, ha, ht]

theorem jointMove_of_receive {a : Bool} (hp : m.master.pend = .byte) (hr : m.master.phase.isMr = true)
    (ha : m.master.ack = some a) : jointMove O m = jointReceive a m := by
  have hno : m.master.phase.isAddr = false ∧ m.master.phase.isMt = false := by
    revert hr; cases m.master.phase <;> decide
  simp [jointMove, hp, hno, hr, ha]

end

/-- The address byte (R315): nobody answers it, or the slave that answers is addressed. -/
theorem jointAddress_cases (O : OadrLayout) (t : Byte) (m : BusMove) :
    jointAddress O t m = { m with
      master := m.master.event (if t.getLsbD 0 then .mrSlaNack else .mtSlaNack), target := none } ∨
    ∃ j d, m.slaves[j]? = some d ∧ answers O (t.extractLsb' 1 7) d = true ∧
      jointAddress O t m =
        { master := m.master.event (if t.getLsbD 0 then .mrSlaAck else .mtSlaAck)
          slaves := m.slaves.set j (d.event (if t.getLsbD 0 then .stSlaAck else .srSlaAck))
          target := some (j + 1) } := by
  unfold jointAddress
  dsimp only
  split
  · rename_i k hk
    obtain ⟨j, d, hj, hd, ha⟩ := mem_answering (O := O) (a := t.extractLsb' 1 7) (l := m.slaves) (k := 1)
      (j := k) (by rw [hk]; simp)
    obtain rfl : k = j + 1 := by omega
    have hslave : slaveAt m.slaves (j + 1) = some d := hd
    rw [hslave]
    exact .inr ⟨j, d, hd, ha, rfl⟩
  · exact .inl rfl

/-- A byte from the addressed slave (R317). -/
theorem jointReceive_of_target {m : BusMove} {j : Nat} {d : Device} {t : Byte} {ackM ack : Bool}
    (ht : m.target = some (j + 1)) (hd : m.slaves[j]? = some d) (hs : d.phase.isSt = true)
    (hp : d.pend = .byte) (htx : d.txbyte = some t) (hack : d.ack = some ack) :
    ∃ e, jointReceive ackM m = some { m with
      master := ({ m.master with data := t }).event (if ackM then .mrDataAck else .mrDataNack)
      slaves := m.slaves.set j (d.event e) } := by
  have hslave : targetSlave m = some (j + 1, d) := by simp [targetSlave, ht, slaveAt, hd]
  have hevent : ∃ e, receiveEvent ackM d = some e := by cases ackM <;> simp [receiveEvent, hack]
  obtain ⟨e, he⟩ := hevent
  refine ⟨e, ?_⟩
  simp [jointReceive, hslave, hs, hp, htx, he, setSlave]

/-- A joint turn of a system that meets the invariant: nothing, or the enabled move of the bus. -/
theorem stepTurn_joint_cases {s s' : State} {m : Device} {ds : List Device} (hs : s.Inv)
    (hb : s.cfg.busMode = .closedBus) (hdevs : s.devs = m :: ds) (h : stepTurn .joint s = .next s') :
    s' = s ∨ (jointEnabled { master := m, slaves := ds, target := s.target } = true ∧
      ∃ b, jointMove s.cfg.chip.oadr { master := m, slaves := ds, target := s.target } = some b ∧
        s' = s.setBus b) := by
  obtain ⟨b, hm⟩ := Option.ne_none_iff_exists'.mp (hs.jointMove_ne_none hdevs)
  cases he : jointEnabled { master := m, slaves := ds, target := s.target } with
  | false =>
    rw [stepTurn_joint hb, jointStep, hdevs] at h
    simp only [he, Bool.false_eq_true, if_false] at h
    cases h
    exact .inl rfl
  | true =>
    rw [stepTurn_joint_of_move hb hdevs he hm] at h
    cases h
    exact .inr ⟨rfl, b, hm, rfl⟩

section
variable {O : OadrLayout} {m b : BusMove}

theorem JointSlave.resp_ownAddr {d d' : Device} (h : JointSlave O d d') :
    d'.resp = d.resp ∧ d'.ownAddr O = d.ownAddr O := by
  cases h <;> exact ⟨rfl, rfl⟩

/-- A joint step leaves the master's engine where it is. -/
theorem jointMove_sameEngine (h : jointMove O m = some b) : m.master.SameEngine b.master := by
  obtain rfl | hj := jointMove_moves h
  · exact .refl _
  · exact hj.master.sameEngine

/-- A joint step leaves every slave its `RESP` and its address. -/
theorem jointMove_slaves (h : jointMove O m = some b) (j : Nat) (d : Device) (hd : m.slaves[j]? = some d) :
    ∃ d', b.slaves[j]? = some d' ∧ d'.resp = d.resp ∧ d'.ownAddr O = d.ownAddr O := by
  obtain rfl | hj := jointMove_moves h
  · exact ⟨d, hd, rfl, rfl⟩
  · obtain ⟨d', hd', rfl | hslave⟩ := hj.slaves j d hd
    · exact ⟨d', hd', rfl, rfl⟩
    · exact ⟨d', hd', hslave.resp_ownAddr⟩

end

section
variable {s : State} {m m' : Device} {ds : List Device} {b : BusMove} {a : Addr}

theorem readInv_addrWait_iff (hst : m.stage = .rrAddrWait) : s.ReadInv m ↔
    (m.ctrl.int = true → m.phase = .mrSlaAck → s.Addresses m) ∧
    (m.ctrl.int = false → ∃ a, m.eng.addr = some a ∧ m.txbyte = some (sla8 a true)) := by
  simp only [State.ReadInv, hst]

theorem readInv_readWait_iff (hst : m.stage = .rrReadWait) : s.ReadInv m ↔
    (m.ctrl.int = true → s.IsRespFor m m.data) ∧ (m.ctrl.int = false → s.Addresses m) := by
  simp only [State.ReadInv, hst]

theorem readInv_finish_iff (hst : m.stage = .rrFinish) : s.ReadInv m ↔
    ∃ b, m.eng.byte = some b ∧ s.IsRespFor m b := by
  simp only [State.ReadInv, hst]

/-- The address byte of a read: a slave that answers has the latched address (R100, R315). -/
theorem readInv_jointAddress (hst : m.stage = .rrAddrWait) (ha : m.eng.addr = some a)
    (hb : b = jointAddress s.cfg.chip.oadr (sla8 a true) { master := m, slaves := ds, target := s.target }) :
    (s.setBus b).ReadInv b.master := by
  have hread : ∀ a : Addr, (sla8 a true).getLsbD 0 = true ∧ (sla8 a true).extractLsb' 1 7 = a := by decide
  obtain hno | ⟨j, d, hd, hans, hyes⟩ := jointAddress_cases s.cfg.chip.oadr (sla8 a true)
    { master := m, slaves := ds, target := s.target }
  · rw [hb, hno, (hread a).1]
    exact (readInv_addrWait_iff (m := m.event .mrSlaNack) hst).mpr ⟨nofun, nofun⟩
  · rw [hb, hyes, (hread a).1]
    rw [(hread a).2] at hans
    simp only [answers, Bool.and_eq_true, beq_iff_eq] at hans
    obtain ⟨⟨⟨-, hown⟩, -⟩, -⟩ := hans
    have hset : (ds.set j (d.event .stSlaAck))[j]? = some (d.event .stSlaAck) := by
      obtain ⟨hj, -⟩ := List.getElem?_eq_some_iff.mp hd
      exact List.getElem?_set_self hj
    refine (readInv_addrWait_iff (m := m.event .mrSlaAck) hst).mpr ⟨fun _ _ => ?_, nofun⟩
    exact ⟨j, d.event .stSlaAck, rfl, hset, by rw [← hown] at ha; exact ha, rfl, .inl rfl⟩

/-- The byte of a read is the `RESP` of the slave that the handler has armed (R285, R317). -/
theorem readInv_jointReceive {ackM : Bool} (hs : s.Inv) (hdevs : s.devs = m :: ds)
    (hst : m.stage = .rrReadWait) (hslaves : ∀ d ∈ ds, d.ctrl.int = false) (h : s.Addresses m)
    (hb : jointReceive ackM { master := m, slaves := ds, target := s.target } = some b) :
    (s.setBus b).ReadInv b.master := by
  obtain ⟨j, d, ht, hd, ha, hp, hreply⟩ := h
  obtain ⟨⟨-, -, -, -, -, -, hack⟩, -⟩ := hs.device hd
  rw [hdevs] at hd
  have hd' : ds[j]? = some d := hd
  obtain ⟨hint, hpend, htx⟩ := hreply.resolve_left (by simp [hslaves d (List.mem_of_getElem? hd')])
  obtain ⟨ack, hack⟩ := Option.isSome_iff_exists.mp (hack hpend (by rw [hp]; rfl))
  obtain ⟨e, he⟩ := jointReceive_of_target (m := { master := m, slaves := ds, target := s.target })
    (ackM := ackM) ht hd' (by rw [hp]; rfl) hpend htx hack
  obtain rfl := Option.some.inj (hb.symm.trans he)
  have hset : (ds.set j (d.event e))[j]? = some (d.event e) := by
    obtain ⟨hj, -⟩ := List.getElem?_eq_some_iff.mp hd'
    exact List.getElem?_set_self hj
  exact (readInv_readWait_iff (m := ({ m with data := d.resp } : Device).event _) hst).mpr
    ⟨fun _ => ⟨j, d.event e, hset, ha, rfl⟩, nofun⟩

/-- Every enabled joint step of a closed bus. -/
theorem readInv_joint (hs : s.Inv) (hdevs : s.devs = m :: ds) (hcl : m.ClosedTransInv) (h : s.ReadInv m)
    (he : jointEnabled { master := m, slaves := ds, target := s.target } = true)
    (hm : jointMove s.cfg.chip.oadr { master := m, slaves := ds, target := s.target } = some b) :
    (s.setBus b).ReadInv b.master := by
  simp only [jointEnabled, Bool.and_eq_true, Bool.not_eq_true', List.all_eq_true] at he
  obtain ⟨⟨⟨-, hint⟩, -⟩, hslaves⟩ := he
  have hsame : m.SameEngine b.master := jointMove_sameEngine hm
  by_cases hst : m.stage.isReading = false
  · exact readInv_of_stage (by rw [hsame.stage]; exact hst)
  · unfold Device.ClosedTransInv at hcl
    cases hs' : m.stage <;>
      simp only [hs', hint, Bool.false_eq_true, false_and, false_or, true_and] at hst hcl
    case rrAddrWait =>
      obtain ⟨hp, haddr, -⟩ := hcl
      obtain ⟨a, ha, htx⟩ := ((readInv_addrWait_iff hs').mp h).2 hint
      have hb := jointMove_of_address (O := s.cfg.chip.oadr)
        (m := { master := m, slaves := ds, target := s.target }) hp haddr htx
      exact readInv_jointAddress hs' ha (Option.some.inj (hm.symm.trans hb))
    case rrReadWait =>
      obtain ⟨hp, hphase⟩ := hcl
      have hread := ((readInv_readWait_iff hs').mp h).2 hint
      have hd : s.devs[0]? = some m := by rw [hdevs]; rfl
      obtain ⟨⟨-, -, -, -, -, -, hlatch⟩, -⟩ := hs.device hd
      obtain ⟨ackM, hack⟩ := Option.isSome_iff_exists.mp (hlatch hp (by rw [hphase]; rfl))
      have hb := jointMove_of_receive (O := s.cfg.chip.oadr)
        (m := { master := m, slaves := ds, target := s.target }) hp (by rw [hphase]; rfl) hack
      exact readInv_jointReceive hs hdevs hs' hslaves hread (hb.symm.trans hm)
    case rrFinish =>
      obtain ⟨x, hx, j, d, hd, ha, hresp⟩ := (readInv_finish_iff hs').mp h
      rw [hdevs] at hd
      obtain ⟨d', hd', hresp', hown⟩ := jointMove_slaves hm j d hd
      refine (readInv_finish_iff (hsame.stage.trans hs')).mpr ⟨x, by rw [hsame.eng, hx], j, d', hd', ?_, ?_⟩
      · rw [hsame.eng, ha]
        exact congrArg some hown.symm
      · rw [hresp', hresp]
    all_goals exact absurd rfl hst

end

/-! ### Every interleaving (R294, R295, R318) -/

/-- The devices of a system after a turn, the first apart from the others. -/
theorem Moves.cons {s s' : State} {t : Turn} {m : Device} {ds : List Device} (h : Moves t s s')
    (hdevs : s.devs = m :: ds) :
    ∃ m' ds', s'.devs = m' :: ds' ∧ Move s 0 m t m' ∧
      ∀ d' ∈ ds', ∃ k d, ds[k]? = some d ∧ Move s (k + 1) d t d' := by
  obtain ⟨-, hlen, -, hmoves⟩ := h
  cases hs' : s'.devs with
  | nil => rw [hs', hdevs] at hlen; cases hlen
  | cons m' ds' =>
    refine ⟨m', ds', rfl, ?_, fun d' hd' => ?_⟩
    · obtain ⟨e, he, hm⟩ := hmoves 0 m (by rw [hdevs]; rfl)
      rw [hs'] at he
      obtain rfl : m' = e := by simpa using he
      exact hm
    · obtain ⟨k, hk⟩ := List.mem_iff_getElem?.mp hd'
      have hlt : k < ds.length := by
        obtain ⟨hlt, -⟩ := List.getElem?_eq_some_iff.mp hk
        rw [hs', hdevs, List.length_cons, List.length_cons] at hlen
        omega
      have hd : s.devs[k + 1]? = some ds[k] := by rw [hdevs]; simp [hlt]
      obtain ⟨e, he, hm⟩ := hmoves (k + 1) ds[k] hd
      rw [hs'] at he
      obtain rfl : d' = e := Option.some.inj (hk.symm.trans he)
      exact ⟨k, ds[k], List.getElem?_eq_getElem hlt, hm⟩

/-- What every move keeps of a device, all devices of the next system have. -/
theorem map_devs_of_moves {α : Type} {s s' : State} {t : Turn} {f : Device → α}
    (h : stepTurn t s = .next s') (hf : ∀ k d d', Move s k d t d' → f d' = f d) :
    s'.devs.map f = s.devs.map f := by
  obtain ⟨-, hlen, -, hmoves⟩ := turn_moves h
  refine List.ext_getElem? fun k => ?_
  simp only [List.getElem?_map]
  cases hd : s.devs[k]? with
  | none =>
    have hk : s'.devs[k]? = none := by
      rw [List.getElem?_eq_none_iff] at hd ⊢
      omega
    rw [hk]
  | some d =>
    obtain ⟨d', hd', hm⟩ := hmoves k d hd
    rw [hd']
    exact congrArg some (hf k d d' hm)

/-- A closed bus with the spec's own values whose master `m` and slaves `ds` are configured (R310). -/
structure State.ConfiguredBus (s : State) (m : Device) (ds : List Device) : Prop where
  standard : s.standard
  inv : s.Inv
  closed : s.ClosedSystem
  devs : s.devs = m :: ds
  master : m.role = .master
  slaves : ∀ d ∈ ds, d.role = .slave

section
variable {s s' : State} {t : Turn} {m m' : Device} {ds ds' : List Device} (hs : s.ConfiguredBus m ds)
  (ht : t.IsOrdinary) (hstep : stepTurn t s = .next s')
include hs ht hstep

/-- A turn that is no joint step leaves the slaves as a reading master sees them. -/
theorem keepsReplies_of_turn (hj : t ≠ .joint) : s.KeepsReplies s' := by
  obtain ⟨hC, hinv, ⟨hb, -, x, xs, hdevs, -, hbus⟩, hdevs', -, hslaves⟩ := hs
  obtain ⟨rfl, rfl⟩ : x = m ∧ xs = ds := by simpa using hdevs.symm.trans hdevs'
  obtain ⟨hcfg, -, -, hmoves⟩ := turn_moves hstep
  refine ⟨by rw [hcfg], stepTurn_target ht hj hstep, fun j d hd => ?_⟩
  obtain ⟨d', hd', -⟩ := hmoves (j + 1) d hd
  have hmem : d ∈ xs := by
    rw [hdevs] at hd
    exact List.mem_of_getElem? (i := j) hd
  exact ⟨d', hd', keepsReply_of_turn hC hinv hb hd (hslaves d hmem) (hbus d hmem) ht hj hstep hd'⟩

theorem readInv_of_turn (hcl : m.ClosedTransInv) (h : s.ReadInv m) (hdevs' : s'.devs = m' :: ds')
    (hm : Move s 0 m t m') : s'.ReadInv m' := by
  have ⟨hC, hinv, ⟨hb, _⟩, hdevs, hr, _⟩ := hs
  by_cases hj : t = .joint
  · subst hj
    obtain rfl | ⟨he, b, hmove, rfl⟩ := stepTurn_joint_cases hinv hb hdevs hstep
    · obtain ⟨rfl, -⟩ : m = m' ∧ ds = ds' := by simpa using hdevs.symm.trans hdevs'
      exact h
    · obtain ⟨rfl, -⟩ : b.master = m' ∧ b.slaves = ds' := by simpa [State.setBus] using hdevs'
      exact readInv_joint hinv hdevs hcl h he hmove
  · exact (keepsReplies_of_turn hs ht hstep hj).readInv (hm.master_readInv hC hb hr ht hj hcl h)

end

/-- The last stage of a read ends it with the byte it has latched (R247, R255). -/
theorem stepTurn_rrFinish {s : State} {m : Device} {b : Byte} (hC : s.standard)
    (hd : s.devs[0]? = some m) (hh : m.halted .engine = false) (hst : m.stage = .rrFinish)
    (hi : m.ctrl.int = true) (hb : m.eng.byte = some b) :
    ∃ m', stepTurn (.engine 0) s = .next (s.after 0 .host m') ∧
      m'.eng.outcome = some (.successByte b) := by
  have hw : ctrlWrite s.cfg 0x94 m = .done (stopCmd (m.commanded false false true false)) :=
    ctrlWrite_stopWord hC (m.busy_of_int hi) false false
  have hrun := (runStage_of_end (.rrFinish b hst hb)).trans (stopWith_done hC hw)
  exact ⟨_, stepTurn_engine_done hd hh hrun, rfl⟩

/-- Settles O60: a turn that is no joint step leaves the slaves' replies alone and moves the master on as
`ReadInv` says; the two joint steps of a read address the slave and take the byte it has armed. -/
theorem closedBusReadsReturnTheSlavesResponse : Obligations.ClosedBusReadsReturnTheSlavesResponse := by
  refine ⟨fun s m hst => readInv_of_stage (by rw [hst]; rfl),
    fun s s' t m ds hC hdirect hreset hw hissue _ hs hclosed hdevs hr hslaves hcl h hstep => ?_,
    fun s m hC hd hh hst hi h => ?_⟩
  · have ht : t.IsOrdinary := ⟨hdirect, hreset, hw, hissue⟩
    refine ⟨map_devs_of_moves hstep fun k d d' hm => hm.resp ht, ?_⟩
    obtain ⟨m', ds', hdevs', hm, hmoves⟩ := (turn_moves hstep).cons hdevs
    refine ⟨m', ds', hdevs', readInv_of_turn ⟨hC, hs, hclosed, hdevs, hr, hslaves⟩ ht hstep hcl h hdevs' hm,
      fun d' hd' => ?_⟩
    obtain ⟨k, d, hd, hmd⟩ := hmoves d' hd'
    have hrole := hslaves d (List.mem_of_getElem? hd)
    obtain ⟨-, -, hi, -⟩ := hs.device (k := k + 1) (d := d) (by rw [hdevs]; exact hd)
    exact ((hmd.persists hreset hi).role (by simp [hrole])).trans hrole
  · obtain ⟨b, hb, hresp⟩ := (readInv_finish_iff hst).mp h
    obtain ⟨m', hstep, hout⟩ := stepTurn_rrFinish hC hd hh hst hi hb
    exact ⟨m', b, hstep, hout, hresp⟩

end Sys2Proof.Machine

namespace Sys2Proof.Machine

/-! ### What a line of the engine or of the handler does to role, address, stage and phase (R30, R36, R101) -/

/-- The lines of a configure (R200, R201). -/
def Stage.isConfigure : Stage → Bool
  | .configureMaster1 _ _ | .configureMaster2 _ _ | .configureMaster3 _ | .configureMaster4
  | .configureSlave1 _ | .configureSlave2 _ | .configureSlave3 => true
  | _ => false

/-- `d'` has the parameters, the role, the address byte and the stage of `d`, and is in its phase or off the
bus. -/
structure Device.StaysConfigured (d d' : Device) : Prop where
  par : d'.par = d.par
  role : d'.role = d.role
  oadr : d'.oadr = d.oadr
  stage : d'.stage = d.stage
  phase : d'.phase = d.phase ∨ d'.phase = .noInfo

/-- How a line of the engine changes the role, the address byte and the stage: only the lines of a configure
set a role or the address (R200, R201). -/
inductive Device.ConfigStep (O : OadrLayout) (d d' : Device) : Prop
  | other (hr : d'.role = d.role) (ho : d'.oadr = d.oadr)
      (hs : d'.stage = d.stage ∨ d'.stage.isConfigure = false)
  | masterLine (hst : d.stage.isConfigureMaster = true ∨ ∃ p k, d.stage = .configureMaster1 p k)
      (hr : d'.role = d.role) (hs : d'.stage.isConfigureMaster = true)
  | masterDone (hst : d.stage = .configureMaster4) (hr : d'.role = .master) (hs : d'.stage = .idle)
  | slaveLine1 (a : Addr) (hst : d.stage = .configureSlave1 a) (hr : d'.role = d.role)
      (ho : d'.oadr = d.oadr) (hs : d'.stage = .configureSlave2 a)
  | slaveLine2 (a : Addr) (hst : d.stage = .configureSlave2 a) (hr : d'.role = d.role)
      (ho : d'.oadr = oadr8 O a) (hs : d'.stage = .configureSlave3)
  | slaveDone (hst : d.stage = .configureSlave3) (hr : d'.role = .slave) (ho : d'.oadr = d.oadr)
      (hs : d'.stage = .idle)

/-- What a line of the engine does to its device. -/
structure Device.StageStep (O : OadrLayout) (d d' : Device) : Prop where
  par : d'.par = d.par
  phase : d'.phase = d.phase ∨ d'.phase = .noInfo
  config : d.ConfigStep O d'

section
variable {P Q : Device → Prop} {e : Eff} {cfg : Config} {O : OadrLayout} {v : Byte} {d d' d'' w : Device}

theorem Eff.EndsWith.mono (h : e.EndsWith P) (hPQ : ∀ x, P x → Q x) : e.EndsWith Q := by
  cases e with
  | done x => exact hPQ x h
  | fault r x => exact hPQ x h
  | refuse r => trivial

theorem Device.StaysConfigured.refl (d : Device) : d.StaysConfigured d := ⟨rfl, rfl, rfl, rfl, .inl rfl⟩

theorem Device.StaysConfigured.trans (h : d.StaysConfigured d') (h' : d'.StaysConfigured d'') :
    d.StaysConfigured d'' where
  par := h'.par.trans h.par
  role := h'.role.trans h.role
  oadr := h'.oadr.trans h.oadr
  stage := h'.stage.trans h.stage
  phase := h'.phase.elim (fun hp => hp ▸ h.phase) .inr

theorem Device.StaysConfigured.stageStep (h : d.StaysConfigured d') : d.StageStep O d' :=
  ⟨h.par, h.phase, .other h.role h.oadr (.inl h.stage)⟩

theorem Device.StaysConfigured.stageStep_goto {next : Stage} (h : d.StaysConfigured d')
    (hn : next.isConfigure = false) : d.StageStep O (d'.goto next) :=
  ⟨h.par, h.phase, .other h.role h.oadr (.inr hn)⟩

/-! ### The phase after a control write (R142–R148) -/

theorem configCmd_phase (en : Bool) (w : Device) :
    (configCmd en w).phase = w.phase ∨ (configCmd en w).phase = .noInfo := by
  unfold configCmd
  split_ifs
  exacts [.inr rfl, .inr rfl, .inl rfl]

theorem startCmd_phase (h : startCmd cfg d w = .done d') : d'.phase = w.phase := by
  unfold startCmd at h
  split at h
  · split at h <;> cases h
    rfl
  · cases h
    rfl

theorem stopCmd_phase (w : Device) : (stopCmd w).phase = w.phase ∨ (stopCmd w).phase = .noInfo := by
  unfold stopCmd
  split_ifs
  exacts [.inl rfl, .inl rfl, .inr rfl]

theorem continueCmd_phase (h : continueCmd d w = .done d') : d'.phase = w.phase ∨ d'.phase = .noInfo := by
  unfold continueCmd at h
  split_ifs at h <;> cases h
  exacts [.inl rfl, .inl rfl, .inr rfl, .inl rfl, .inl rfl, .inr rfl, .inl rfl]

/-- A control write leaves the phase or takes the device off the bus. -/
theorem ctrlWrite_phase (hw : ctrlWrite cfg v d = .done d') : d'.phase = d.phase ∨ d'.phase = .noInfo := by
  unfold ctrlWrite at hw
  dsimp only at hw
  split_ifs at hw with hres hbusy hconfig hstart hstop
  · cases hw
    exact configCmd_phase _ _
  · exact .inl (startCmd_phase hw :)
  · cases hw
    exact stopCmd_phase _
  · exact (continueCmd_phase hw :)

theorem ctrlWrite_done_staysConfigured (hw : ctrlWrite cfg v d = .done d') : d.StaysConfigured d' := by
  have hphase := ctrlWrite_phase hw
  have hframe := ctrlWrite_frame cfg d hw
  exact ⟨by rw [hframe], by rw [hframe], by rw [hframe], by rw [hframe], hphase⟩

theorem ctrlWrite_staysConfigured (cfg : Config) (v : Byte) (d : Device) :
    (ctrlWrite cfg v d).EndsWith d.StaysConfigured :=
  ctrlWrite_endsWith (.refl d) fun _ => ctrlWrite_done_staysConfigured

theorem readData_staysConfigured (d : Device) : d.StaysConfigured (readData d).2 := by
  unfold readData
  split <;> exact ⟨rfl, rfl, rfl, rfl, .inl rfl⟩

theorem writeData_staysConfigured (v : Byte) (d : Device) : d.StaysConfigured (writeData v d) := by
  unfold writeData
  split <;> exact ⟨rfl, rfl, rfl, rfl, .inl rfl⟩

/-! ### The lines of the engine and of the handler -/

theorem line_staysConfigured {i : Instr} {op : OpKind} {line : Device → Eff} (hl : IsLine cfg i op line) :
    (line d).EndsWith d.StaysConfigured := by
  cases hl with
  | stop | armForReply | clearEvent | recover => exact ctrlWrite_staysConfigured cfg _ d
  | loadData b => exact writeData_staysConfigured b d
  | readData => exact (readData_staysConfigured d).trans ⟨rfl, rfl, rfl, rfl, .inl rfl⟩
  | readStatus => exact ⟨rfl, rfl, rfl, rfl, .inl rfl⟩

theorem handlerInvocation_staysConfigured {action : Device → Eff} (ha : IsAction cfg action) :
    (handlerInvocation action d).EndsWith d.StaysConfigured := by
  have htake : d.StaysConfigured (takeInterrupt d) := ⟨rfl, rfl, rfl, rfl, .inl rfl⟩
  have hwrite : ∀ {v} {x : Device}, d.StaysConfigured x →
      (ctrlWrite cfg v x).EndsWith d.StaysConfigured := fun hx =>
    (ctrlWrite_staysConfigured cfg _ _).mono fun _ hy => hx.trans hy
  have hact : (action (takeInterrupt d)).EndsWith d.StaysConfigured := by
    cases ha with
    | addrW | other => exact hwrite htake
    | dataRx =>
      exact hwrite ((htake.trans (readData_staysConfigured _)).trans ⟨rfl, rfl, rfl, rfl, .inl rfl⟩)
    | dataReq => exact hwrite (htake.trans (writeData_staysConfigured _ _))
  exact hact.map fun _ hx => hx.trans ⟨rfl, rfl, rfl, rfl, .inl rfl⟩

theorem ctrlWrite_map_stageStep {f : Device → Device} (hf : ∀ x, d.StaysConfigured x → d.StageStep O (f x)) :
    ((ctrlWrite cfg v d).map f).EndsWith (d.StageStep O) :=
  ctrlWrite_map_endsWith (Device.StaysConfigured.refl d).stageStep fun x hw =>
    hf x (ctrlWrite_done_staysConfigured hw)

theorem hold_stageStep {next : Stage} (hn : next.isConfigure = false) :
    (hold next d).EndsWith (d.StageStep O) :=
  hold_endsWith (Device.StaysConfigured.refl d).stageStep fun _ =>
    (Device.StaysConfigured.refl d).stageStep_goto hn

theorem withLatch_stageStep {α : Type} {o : Option α} {f : α → Eff}
    (hf : ∀ a, (f a).EndsWith (d.StageStep O)) : (withLatch o f d).EndsWith (d.StageStep O) :=
  withLatch_endsWith (Device.StaysConfigured.refl d).stageStep fun a _ => hf a

theorem lastLine_stageStep {i : Instr} {op : OpKind} {line : Device → Eff} (hl : IsLine cfg i op line) :
    (lastLine line d).EndsWith (d.StageStep O) := by
  have h := line_staysConfigured (d := d) hl
  unfold lastLine
  cases hx : line d with
  | done x => rw [hx] at h; exact h.stageStep_goto rfl
  | fault r x => rw [hx] at h; exact h.stageStep
  | refuse r => trivial

/-- Every stage of the engine (R40). -/
theorem runStage_stageStep (cfg : Config) (d : Device) :
    (runStage cfg d).EndsWith (d.StageStep cfg.chip.oadr) := by
  have hself := Device.StaysConfigured.refl d
  have hread := readData_staysConfigured d
  unfold runStage
  cases hst : d.stage with
  | idle => exact hself.stageStep
  | configureMaster1 p k =>
    exact .ite trivial (.ite trivial (.ite trivial (.ite trivial
      ⟨rfl, .inl rfl, .masterLine (.inr ⟨p, k, hst⟩) rfl rfl⟩)))
  | configureMaster2 | configureMaster3 =>
    exact ⟨rfl, .inl rfl, .masterLine (.inl (by rw [hst]; rfl)) rfl rfl⟩
  | configureMaster4 =>
    exact ctrlWrite_map_stageStep fun x hx => ⟨hx.par, hx.phase, .masterDone hst rfl rfl⟩
  | configureSlave1 a =>
    exact .ite trivial (.ite trivial (.ite trivial ⟨rfl, .inl rfl, .slaveLine1 a hst rfl rfl rfl⟩))
  | configureSlave2 a => exact ⟨rfl, .inl rfl, .slaveLine2 a hst rfl rfl rfl⟩
  | configureSlave3 =>
    exact ctrlWrite_map_stageStep fun x hx => ⟨hx.par, hx.phase, .slaveDone hst rfl hx.oadr rfl⟩
  | start1 | writeByte2 | readByte1 | setAck2 | wcStartGo | wcAddrGo | wcDataGo | rrStartGo | rrAddrGo
  | rrReadGo => exact ctrlWrite_map_stageStep fun x hx => hx.stageStep_goto rfl
  | start2 | writeByte3 | readByte2 | wcStartWait | wcAddrWait | wcDataWait | rrStartWait | rrAddrWait
  | rrReadWait => exact hold_stageStep rfl
  | stop1 => exact lastLine_stageStep .stop
  | armForReply1 => exact lastLine_stageStep .armForReply
  | loadData1 b => exact lastLine_stageStep (cfg := cfg) (.loadData b)
  | readData1 => exact lastLine_stageStep (cfg := cfg) .readData
  | clearEvent1 => exact lastLine_stageStep .clearEvent
  | recover1 => exact lastLine_stageStep .recover
  | readStatus1 => exact lastLine_stageStep .readStatus
  | setAck1 => exact .ite trivial (hself.stageStep_goto rfl)
  | writeByte1 => exact (writeData_staysConfigured _ d).stageStep_goto rfl
  | wcAddrLoad | wcDataLoad | rrAddrLoad =>
    exact withLatch_stageStep fun _ => (writeData_staysConfigured _ d).stageStep_goto rfl
  | readByte4 => exact ⟨hread.par, hread.phase, .other hread.role hread.oadr (.inr rfl)⟩
  | rrReadTest =>
    refine ⟨hread.par, hread.phase, .other hread.role hread.oadr (.inr ?_)⟩
    rw [Device.goto_stage]
    split <;> rfl
  | wcAddrTest | wcDataTest | rrAddrTest =>
    refine ⟨rfl, .inl rfl, .other rfl rfl (.inr ?_)⟩
    rw [Device.goto_stage]
    split <;> rfl
  | wcFinish =>
    exact ctrlWrite_map_stageStep fun x hx => ⟨hx.par, hx.phase, .other hx.role hx.oadr (.inr rfl)⟩
  | wcAbort | rrFinish | rrAbort =>
    exact withLatch_stageStep fun _ => ctrlWrite_map_stageStep fun x hx =>
      ⟨hx.par, hx.phase, .other hx.role hx.oadr (.inr rfl)⟩
  | writeByte4 | readByte3 | wcIssue | rrIssue => exact ⟨rfl, .inl rfl, .other rfl rfl (.inr rfl)⟩

theorem hostAct_staysConfigured (a : HostAct) (d : Device) : d.StaysConfigured (hostAct a d) := by
  rw [hostAct_frame]
  exact ⟨rfl, rfl, rfl, rfl, .inl rfl⟩

end

/-! ### The phases of a closed bus (R312) -/

/-- A phase that is no bus error and no lost arbitration. -/
abbrev Device.NoBusError (d : Device) : Prop := d.phase.code ∉ ([0x00, 0x38, 0x68, 0x78, 0xB0] : List Byte)

section
variable {s : State} {k : Nat} {t : Turn} {O : OadrLayout} {d d' : Device}

theorem Device.NoBusError.of_phase (h : d.NoBusError) (hp : d'.phase = d.phase ∨ d'.phase = .noInfo) :
    d'.NoBusError := by
  obtain hp | hp := hp <;> unfold Device.NoBusError <;> rw [hp]
  · exact h
  · decide

theorem Eff.EndsWith.noBusError {e : Eff} {a : Agent} (he : e.EndsWith Device.NoBusError)
    (h : d.NoBusError) : (e.settle a d).NoBusError :=
  he.settle (fun _ _ hx => hx) fun _ => h

theorem ctrlWrite_noBusError (cfg : Config) (v : Byte) (h : d.NoBusError) :
    (ctrlWrite cfg v d).EndsWith Device.NoBusError :=
  (ctrlWrite_staysConfigured cfg v d).mono fun _ hx => h.of_phase hx.phase

theorem runStage_noBusError (cfg : Config) (h : d.NoBusError) :
    (runStage cfg d).EndsWith Device.NoBusError :=
  (runStage_stageStep cfg d).mono fun _ hx => h.of_phase hx.phase

theorem OpMove.noBusError {cfg : Config} {who : Issuer} {i : Instr} (hop : OpMove cfg k who i d d')
    (h : d.NoBusError) : d'.NoBusError := by
  cases hop with
  | refused r => exact h
  | line1 op st => exact (runStage_noBusError cfg (d := d.goto st) h).noBusError h
  | handlerLine op line hl =>
    exact ((line_staysConfigured hl).mono fun _ hx => h.of_phase hx.phase).noBusError h

theorem readRegister_staysConfigured (C : Chip) (r : Option Reg) (d : Device) :
    d.StaysConfigured (readRegister C r d) := by
  unfold readRegister
  split
  case h_4 => exact (readData_staysConfigured d).trans ⟨rfl, rfl, rfl, rfl, .inl rfl⟩
  all_goals exact ⟨rfl, rfl, rfl, rfl, .inl rfl⟩

theorem writeRegister_phase (L : StatLayout) (r : Option Reg) (v : Byte) (d : Device) :
    (writeRegister L r v d).phase = d.phase := by
  unfold writeRegister
  split
  case h_4 => unfold writeData; split <;> rfl
  all_goals rfl

/-- No joint step reports a bus error or a lost arbitration to the master (R314–R319). -/
theorem JointMaster.noBusError (h : JointMaster d d') : d'.NoBusError := by
  unfold Device.NoBusError
  cases h with
  | start | repStart => rw [Device.event_phase]; decide
  | stop =>
    have hoff : (executeStop d).phase = .noInfo := rfl
    rw [hoff]; decide
  | address t acked => rw [Device.event_phase]; cases t.getLsbD 0 <;> cases acked <;> decide
  | transmit acked => rw [Device.event_phase]; cases acked <;> decide
  | receive b a => rw [Device.event_phase]; cases a <;> decide

/-- Nor does one to a slave. -/
theorem JointSlave.noBusError (h : JointSlave O d d') : d'.NoBusError := by
  unfold Device.NoBusError
  cases h with
  | ended | sentLast => rw [Device.event_phase]; decide
  | addressed a read => rw [Device.event_phase]; cases read <;> decide
  | received t a | sent a => rw [Device.event_phase]; cases a <;> decide

/-- Every move on a closed bus. -/
theorem Move.noBusError (hb : s.cfg.busMode = .closedBus) (hm : Move s k d t d') (h : d.NoBusError) :
    d'.NoBusError := by
  cases hm with
  | stay | illegal | directRefused | jointFault => exact h
  | issue who w i _ _ _ hop => exact hop.noBusError h
  | engine => exact (runStage_noBusError s.cfg h).noBusError h
  | handler action ha =>
    exact ((handlerInvocation_staysConfigured ha).mono fun _ hx => h.of_phase hx.phase).noBusError h
  | hostAct a => exact h.of_phase (hostAct_staysConfigured a d).phase
  | directRead => exact h.of_phase (readRegister_staysConfigured _ _ d).phase
  | directWrite => exact h.of_phase (.inl (writeRegister_phase _ _ _ d))
  | directCtrl off v v' => exact (ctrlWrite_noBusError s.cfg v' h).noBusError h
  | xcvr code b ho => rw [hb] at ho; cases ho
  | jointMaster _ _ _ _ _ hj => exact hj.noBusError
  | jointSlave _ _ _ _ hj => exact hj.noBusError
  | reset | resetAll => exact h.of_phase (.inr rfl)

end

/-! ### A master's transaction on a closed bus (R246, R247, R322) -/

/-- Every outcome the engine has latched is one of R322. -/
def Device.EndsOnClosedBus (d : Device) : Prop := ∀ o, d.eng.outcome = some o → o.onClosedBus

section
variable {cfg : Config} {m x : Device}

theorem closedTransInv_of_stage (hwc : m.stage.isWc = false) (hrr : m.stage.isRr = false) :
    m.ClosedTransInv := by
  unfold Device.ClosedTransInv
  split <;> simp_all [Stage.isWc, Stage.isRr]

/-- A start word that is done: the start is pending, at once or after the stop (R143). -/
theorem ctrlWrite_start_pending (hC : cfg.chip = standardChip) (hw : ctrlWrite cfg 0xA4 m = .done x) :
    x.ctrl.int = false ∧ (x.pend = .start ∨ x.pend = .stopThenStart) := by
  have hb : m.busy = false := not_busy_of_ctrlWrite_done hw (by rw [hC]; rfl)
  have hstart : ctrlWrite cfg 0xA4 m = startCmd cfg m (m.commanded false true false false) :=
    ctrlWrite_startWord hC hb false false
  rw [hstart] at hw
  refine ⟨?_, startCmd_pend hw⟩
  unfold startCmd at hw
  split at hw
  · split at hw <;> cases hw
    rfl
  · cases hw
    rfl

section
variable {st nxt : Stage} (hC : cfg.chip = standardChip) (hs : m.stage = st)
include hC hs

theorem runStage_startGo_closed (hg : (st, 0xA4, nxt) ∈ goStages) (h : m.ClosedTransInv)
    (hn : ∀ x : Device, x.ctrl.int = false → x.pend = .start ∨ x.pend = .stopThenStart →
      (x.goto nxt).ClosedTransInv) : (runStage cfg m).EndsWith Device.ClosedTransInv := by
  rw [runStage_of_go hC hs hg]
  refine ctrlWrite_map_endsWith h fun x hw => ?_
  obtain ⟨hi, hp⟩ := ctrlWrite_start_pending hC hw
  exact hn x hi hp

theorem runStage_byteGo_closed (hg : (st, 0x84, nxt) ∈ goStages) (hi : m.ctrl.int = true)
    (hp : m.phase.takesByte = true) (hn : (m.byteStep.goto nxt).ClosedTransInv) :
    (runStage cfg m).EndsWith Device.ClosedTransInv := by
  rw [runStage_of_go hC hs hg, ctrlThen_done (ctrlWrite_byteStep hC hi hp)]
  exact hn

theorem runStage_test_closed {acc : List Status} {good bad : Stage}
    (ht : (st, acc, good, bad) ∈ testStages) (hi : m.ctrl.int = true)
    (hgood : m.phase ∈ acc → (m.tested.goto good).ClosedTransInv)
    (hbad : m.phase ∉ acc → (m.tested.goto bad).ClosedTransInv) :
    (runStage cfg m).EndsWith Device.ClosedTransInv := by
  rw [runStage_of_test hs ht, testCode_of_int hC hi]
  split
  · exact hgood ‹_›
  · exact hbad ‹_›

end

theorem runStage_load_closed {α : Type} {o : Option α} {g : α → Byte} {nxt : Stage}
    (hi : m.ctrl.int = true) (h : m.ClosedTransInv)
    (hn : ∀ a, ((m.loaded (g a)).goto nxt).ClosedTransInv) :
    (withLatch o (fun a => loadThen (g a) nxt m) m).EndsWith Device.ClosedTransInv := by
  refine withLatch_endsWith h fun a _ => ?_
  rw [loadThen, writeData_of_int _ m hi]
  exact hn a

theorem stopWith_closed (cfg : Config) (o : EngOutcome) (h : m.ClosedTransInv) :
    (stopWith cfg o m).EndsWith Device.ClosedTransInv :=
  ctrlWrite_map_endsWith h fun _ _ => closedTransInv_of_stage rfl rfl

/-- The stages of a transaction. -/
theorem runStage_transaction_closed (hC : cfg.chip = standardChip) (h : m.ClosedTransInv)
    (hst : m.stage.isWc = true ∨ m.stage.isRr = true) :
    (runStage cfg m).EndsWith Device.ClosedTransInv := by
  have hinv := h
  have haddress : m.phase.isAddr = true → m.phase.takesByte = true := by
    cases m.phase <;> decide
  have hsla : ∀ a : Addr, (sla8 a false).getLsbD 0 = false ∧ (sla8 a true).getLsbD 0 = true := by decide
  unfold Device.ClosedTransInv at h
  cases hs : m.stage <;> simp only [hs] at h hst
  case wcStartGo =>
    exact runStage_startGo_closed (nxt := .wcStartWait) hC hs (by decide) hinv fun _ hi hp => .inr ⟨hi, hp⟩
  case rrStartGo =>
    exact runStage_startGo_closed (nxt := .rrStartWait) hC hs (by decide) hinv fun _ hi hp => .inr ⟨hi, hp⟩
  case wcStartWait =>
    rw [runStage_of_hold hs (show (_, .wcAddrLoad) ∈ holdStages by decide)]
    exact hold_endsWith hinv fun hi => h.resolve_right (by simp [hi])
  case rrStartWait =>
    rw [runStage_of_hold hs (show (_, .rrAddrLoad) ∈ holdStages by decide)]
    exact hold_endsWith hinv fun hi => h.resolve_right (by simp [hi])
  case wcAddrLoad =>
    simp only [runStage, hs]
    exact runStage_load_closed h.1 hinv fun a => ⟨h.1, h.2, (hsla a).1⟩
  case rrAddrLoad =>
    simp only [runStage, hs]
    exact runStage_load_closed h.1 hinv fun a => ⟨h.1, h.2, (hsla a).2⟩
  case wcDataLoad =>
    simp only [runStage, hs]
    exact runStage_load_closed (g := id) h.1 hinv fun _ => h
  case wcAddrGo =>
    obtain ⟨hi, hp, hdir⟩ := h
    exact runStage_byteGo_closed (nxt := .wcAddrWait) hC hs (by decide) hi (haddress hp)
      (.inr ⟨rfl, rfl, hp, m.data, by simp [Device.byteStep, hp], hdir⟩)
  case rrAddrGo =>
    obtain ⟨hi, hp, hdir⟩ := h
    exact runStage_byteGo_closed (nxt := .rrAddrWait) hC hs (by decide) hi (haddress hp)
      (.inr ⟨rfl, rfl, hp, m.data, by simp [Device.byteStep, hp], hdir⟩)
  case wcDataGo =>
    obtain ⟨hi, hp⟩ := h
    exact runStage_byteGo_closed (nxt := .wcDataWait) hC hs (by decide) hi (by rw [hp]; rfl)
      (.inr ⟨rfl, rfl, hp⟩)
  case rrReadGo =>
    obtain ⟨hi, hp⟩ := h
    exact runStage_byteGo_closed (nxt := .rrReadWait) hC hs (by decide) hi (by rw [hp]; rfl)
      (.inr ⟨rfl, rfl, hp⟩)
  case wcAddrWait =>
    rw [runStage_of_hold hs (show (_, .wcAddrTest) ∈ holdStages by decide)]
    exact hold_endsWith hinv fun hi => h.resolve_right (by simp [hi])
  case rrAddrWait =>
    rw [runStage_of_hold hs (show (_, .rrAddrTest) ∈ holdStages by decide)]
    exact hold_endsWith hinv fun hi => h.resolve_right (by simp [hi])
  case wcDataWait =>
    rw [runStage_of_hold hs (show (_, .wcDataTest) ∈ holdStages by decide)]
    exact hold_endsWith hinv fun hi => h.resolve_right (by simp [hi])
  case rrReadWait =>
    rw [runStage_of_hold hs (show (_, .rrReadTest) ∈ holdStages by decide)]
    exact hold_endsWith hinv fun hi => h.resolve_right (by simp [hi])
  case wcAddrTest =>
    obtain ⟨hi, hp⟩ := h
    refine runStage_test_closed hC hs (.head _) hi (fun hg => ⟨hi, List.mem_singleton.mp hg⟩)
      fun hn => .inl ?_
    rw [Device.goto_eng, Device.tested, hp.resolve_left fun hq => hn (by rw [hq]; decide)]
    rfl
  case wcDataTest =>
    obtain ⟨hi, hp⟩ := h
    refine runStage_test_closed hC hs (.tail _ (.head _)) hi (fun _ => trivial) fun hn => .inr ?_
    rw [Device.goto_eng, Device.tested, hp.resolve_left fun hq => hn (by rw [hq]; decide)]
    rfl
  case rrAddrTest =>
    obtain ⟨hi, hp⟩ := h
    refine runStage_test_closed hC hs (.tail _ (.tail _ (.head _))) hi
      (fun hg => ⟨hi, List.mem_singleton.mp hg⟩) fun hn => ?_
    show m.tested.eng.code = some 0x48
    rw [Device.tested, hp.resolve_left fun hq => hn (by rw [hq]; decide)]
    rfl
  case rrReadTest =>
    obtain ⟨hi, hp⟩ := h
    rw [runStage_of_readTest hs, readTest_of_int hC hi,
      if_pos (by rcases hp with hp | hp <;> rw [hp] <;> decide)]
    trivial
  case wcFinish =>
    simp only [runStage, hs]
    exact stopWith_closed cfg _ hinv
  case wcAbort | rrAbort | rrFinish =>
    simp only [runStage, hs]
    exact withLatch_endsWith hinv fun _ _ => stopWith_closed cfg _ hinv
  all_goals simp [Stage.isWc, Stage.isRr] at hst

/-- A stage of no transaction leads to none but through its issue. -/
theorem runStage_other_closed (cfg : Config) (hwc : m.stage.isWc = false) (hrr : m.stage.isRr = false) :
    (runStage cfg m).EndsWith Device.ClosedTransInv := by
  have hinv := closedTransInv_of_stage hwc hrr
  have hdone : ∀ {x : Device}, x.stage.isWc = false → x.stage.isRr = false →
      (Eff.done x).EndsWith Device.ClosedTransInv := closedTransInv_of_stage
  have hwrite : ∀ {v : Byte} {f : Device → Device}, (∀ x, (f x).stage.isWc = false ∧ (f x).stage.isRr = false) →
      ((ctrlWrite cfg v m).map f).EndsWith Device.ClosedTransInv := fun hf =>
    ctrlWrite_map_endsWith hinv fun x _ => closedTransInv_of_stage (hf x).1 (hf x).2
  unfold runStage
  cases hs : m.stage with
  | idle => exact hinv
  | wcIssue | rrIssue => trivial
  | configureMaster1 => exact .ite trivial (.ite trivial (.ite trivial (.ite trivial (hdone rfl rfl))))
  | configureSlave1 => exact .ite trivial (.ite trivial (.ite trivial (hdone rfl rfl)))
  | setAck1 => exact .ite trivial (hdone rfl rfl)
  | configureMaster4 | configureSlave3 | start1 | stop1 | writeByte2 | readByte1 | armForReply1 | setAck2
  | clearEvent1 | recover1 => exact hwrite fun _ => ⟨rfl, rfl⟩
  | start2 | writeByte3 | readByte2 => exact hold_endsWith hinv fun _ => closedTransInv_of_stage rfl rfl
  | loadData1 | readData1 | readStatus1 | writeByte1 | readByte3 | readByte4 | writeByte4
  | configureMaster2 | configureMaster3 | configureSlave2 => exact hdone rfl rfl
  | _ => simp [hs, Stage.isWc, Stage.isRr] at hwc hrr

theorem runStage_closedTransInv (hC : cfg.chip = standardChip) (h : m.ClosedTransInv) :
    (runStage cfg m).EndsWith Device.ClosedTransInv := by
  by_cases hst : m.stage.isWc = true ∨ m.stage.isRr = true
  · exact runStage_transaction_closed hC h hst
  · obtain ⟨hwc, hrr⟩ := not_or.mp hst
    exact runStage_other_closed cfg (by simpa using hwc) (by simpa using hrr)

/-- A stage that ends a transaction latches an outcome of R322. -/
theorem EndsWithOutcome.endsOnClosedBus {o : EngOutcome} (he : EndsWithOutcome cfg m o) (ho : o.onClosedBus)
    (h : m.EndsOnClosedBus) : (runStage cfg m).EndsWith Device.EndsOnClosedBus := by
  rw [runStage_of_end he]
  refine ctrlWrite_map_endsWith h fun x _ o' ho' => ?_
  obtain rfl : o = o' := Option.some.inj ho'
  exact ho

theorem runStage_endsOnClosedBus (hC : cfg.chip = standardChip) (hcl : m.ClosedTransInv)
    (h : m.EndsOnClosedBus) : (runStage cfg m).EndsWith Device.EndsOnClosedBus := by
  cases hend : m.stage.isTransactionEnd with
  | false =>
    refine (runStage_keepsOutcome hend).mono fun x hx => ?_
    unfold Device.EndsOnClosedBus
    rw [hx]
    exact h
  | true =>
    have habort : ∀ {c : Byte}, (m.stage = .wcAbort ∨ m.stage = .rrAbort) → m.eng.code = some c →
        (classify standardStatus c).onClosedBus →
        (runStage cfg m).EndsWith Device.EndsOnClosedBus := fun hst hc ho =>
      (EndsWithOutcome.abort _ hst hc).endsOnClosedBus (by rw [hC]; exact ho) h
    unfold Device.ClosedTransInv at hcl
    cases hs : m.stage <;> rw [hs] at hend <;> simp only [hs] at hcl
    case wcFinish => exact (EndsWithOutcome.wcFinish hs).endsOnClosedBus trivial h
    case wcAbort =>
      obtain hc | hc := hcl
      · exact habort (.inl hs) hc (.inl rfl)
      · exact habort (.inl hs) hc (.inr (.inr rfl))
    case rrAbort => exact habort (.inr hs) hcl (.inr (.inl rfl))
    case rrFinish =>
      cases hb : m.eng.byte with
      | some b => exact (EndsWithOutcome.rrFinish b hs hb).endsOnClosedBus trivial h
      | none =>
        rw [runStage_of_unwritten cfg (.inr (.inr (.inl ⟨hb, hs⟩)))]
        exact h
    all_goals cases hend

/-- A joint step brings a waiting transaction the answer its test expects (R314–R317). -/
theorem JointMaster.closedTransInv (hj : JointMaster m x) (hint : m.ctrl.int = false)
    (h : m.ClosedTransInv) : x.ClosedTransInv := by
  have hstage : x.stage = m.stage := hj.sameEngine.stage
  have heng : x.eng = m.eng := hj.sameEngine.eng
  have hdisjoint : m.phase.isAddr = true → m.phase.isMt = false ∧ m.phase.isMr = false := by
    cases m.phase <;> decide
  unfold Device.ClosedTransInv at h ⊢
  rw [hstage, heng]
  cases hs : m.stage <;> simp only [hs, hint, Bool.false_eq_true, false_and, false_or, true_and] at h ⊢
  case wcStartWait | rrStartWait =>
    cases hj with
    | start | repStart => exact .inl ⟨rfl, rfl⟩
    | address _ _ hp | transmit _ hp | receive _ _ hp => simp [hp] at h
    | stop hp =>
      obtain hq | hq := h
      · rw [hq] at hp; cases hp
      · exact .inr ⟨hint, .inl (by rw [executeStop, hq]; rfl)⟩
  case wcAddrWait | rrAddrWait =>
    obtain ⟨hp, ha, t, ht, hdir⟩ := h
    cases hj with
    | address t' acked _ _ ht' =>
      obtain rfl : t = t' := Option.some.inj (ht.symm.trans ht')
      rw [hdir]
      cases acked
      · exact .inl ⟨rfl, .inr rfl⟩
      · exact .inl ⟨rfl, .inl rfl⟩
    | start hp' | repStart hp' | stop hp' => rw [hp] at hp'; cases hp'
    | transmit _ _ hm => rw [(hdisjoint ha).1] at hm; cases hm
    | receive _ _ _ hm => rw [(hdisjoint ha).2] at hm; cases hm
  case wcDataWait =>
    obtain ⟨hp, hphase⟩ := h
    cases hj with
    | transmit acked =>
      cases acked
      · exact .inl ⟨rfl, .inr rfl⟩
      · exact .inl ⟨rfl, .inl rfl⟩
    | start hp' | repStart hp' | stop hp' => rw [hp] at hp'; cases hp'
    | address _ _ _ hm | receive _ _ _ hm => rw [hphase] at hm; cases hm
  case rrReadWait =>
    obtain ⟨hp, hphase⟩ := h
    cases hj with
    | receive b a =>
      cases a
      · exact .inl ⟨rfl, .inr rfl⟩
      · exact .inl ⟨rfl, .inl rfl⟩
    | start hp' | repStart hp' | stop hp' => rw [hp] at hp'; cases hp'
    | address _ _ _ hm | transmit _ _ hm => rw [hphase] at hm; cases hm
  case wcAbort | rrAbort => exact h

/-- Where a master stands on a closed bus, and what its operations have ended with (R312, R322). -/
structure Device.ClosedMaster (m : Device) : Prop where
  trans : m.ClosedTransInv
  outcome : m.EndsOnClosedBus

theorem runStage_closedMaster (hC : cfg.chip = standardChip) (h : m.ClosedMaster) :
    (runStage cfg m).EndsWith Device.ClosedMaster := by
  have htrans := runStage_closedTransInv hC h.trans
  have hout := runStage_endsOnClosedBus hC h.trans h.outcome
  cases hx : runStage cfg m with
  | done x => rw [hx] at htrans hout; exact ⟨htrans, hout⟩
  | fault r x => rw [hx] at htrans hout; exact ⟨htrans, hout⟩
  | refuse r => trivial

theorem Eff.Leaves.endsWith {P : Device → Prop} {e : Eff} (h : e.Leaves P) : e.EndsWith P := by
  cases e with
  | done x => exact h
  | fault r x => exact h.2
  | refuse r => trivial

/-- A slave's engine runs no transaction (R215), whatever its transceiver does. -/
theorem Device.ClosedMaster.of_slave (h : m.ClosedMaster) (hr : m.role = .slave) (hi : m.RoleInv)
    (hs : m.SameEngine x) : x.ClosedMaster := by
  obtain ⟨-, hslave, -⟩ := hi
  have hstage : m.stage.isWc = false ∧ m.stage.isRr = false := by
    have hst := hslave hr
    revert hst
    cases m.stage <;> simp [Stage.isConfigureSlave, Stage.isWc, Stage.isRr]
  refine ⟨closedTransInv_of_stage (by rw [hs.stage, hstage.1]) (by rw [hs.stage, hstage.2]), fun o ho => ?_⟩
  rw [hs.eng] at ho
  exact h.outcome o ho

theorem JointMaster.closedMaster (hj : JointMaster m x) (hint : m.ctrl.int = false) (h : m.ClosedMaster) :
    x.ClosedMaster := by
  refine ⟨hj.closedTransInv hint h.trans, fun o ho => ?_⟩
  rw [hj.sameEngine.eng] at ho
  exact h.outcome o ho

/-- Line 1 of an operation is no stage of a transaction after its issue. -/
theorem Device.ClosedMaster.line1 {i : Instr} {op : OpKind} {st : Stage} (h : m.ClosedMaster)
    (hst : IsLine1 i op st) : (m.goto st).ClosedMaster := by
  refine ⟨closedTransInv_of_stage ?_ ?_, h.outcome⟩ <;> cases hst <;> rfl

theorem Eff.EndsWith.closedMaster {e : Eff} {a : Agent} (he : e.EndsWith Device.ClosedMaster)
    (h : m.ClosedMaster) : (e.settle a m).ClosedMaster :=
  he.settle (fun _ _ hx => ⟨hx.trans, hx.outcome⟩) fun _ => ⟨h.trans, h.outcome⟩

/-- Every move of device 0 of a closed bus but a direct access. -/
theorem Move.closedMaster {s : State} {t : Turn} (hC : s.standard) (hs : s.Inv)
    (hb : s.cfg.busMode = .closedBus) (hd : s.devs[0]? = some m) (ht : t.isDirect = false)
    (hm : Move s 0 m t x) (h : m.ClosedMaster) : x.ClosedMaster := by
  obtain ⟨-, -, hi, -⟩ := hs.device hd
  have hslave : m.role = .slave → ∀ {e : Eff} {a : Agent}, e.Leaves m.SameEngine →
      (e.settle a m).ClosedMaster := fun hr e a he =>
    (he.endsWith.mono fun _ hx => h.of_slave hr hi hx).closedMaster h
  cases hm with
  | stay => exact h
  | illegal => exact ⟨h.trans, h.outcome⟩
  | issue who w i _ _ _ hop =>
    cases hop with
    | refused r => exact ⟨h.trans, h.outcome⟩
    | line1 op st hst =>
      exact (runStage_closedMaster hC (h.line1 hst)).settle (fun _ _ hx => ⟨hx.trans, hx.outcome⟩)
        fun _ => ⟨h.trans, h.outcome⟩
    | handlerLine op line hl _ hc =>
      exact hslave (contextCheck_handler_none hc).1 (line_sameEngine s.cfg m hl)
  | engine => exact (runStage_closedMaster hC h).closedMaster h
  | handler action ha he =>
    exact hslave (m.handlerEnabled_iff.mp he).1 (handlerInvocation_sameEngine s.cfg m ha)
  | hostAct a =>
    rw [hostAct_frame]
    exact ⟨h.trans, h.outcome⟩
  | directRefused | directRead | directWrite | directCtrl => cases ht
  | xcvr code b ho => rw [hb] at ho; cases ho
  | jointMaster _ _ _ _ hint hj => exact hj.closedMaster hint h
  | jointSlave _ _ hk => exact absurd rfl hk
  | jointFault => exact ⟨h.trans, h.outcome⟩
  | reset | resetAll => exact ⟨closedTransInv_of_stage rfl rfl, nofun⟩

end

/-- Settles O58: no move on a closed bus reports one of the five codes, and every move of the master keeps
`ClosedMaster`. -/
theorem closedBusOutcomes : Obligations.ClosedBusOutcomes := by
  refine ⟨fun s s' t hb hstep h => ?_, fun s s' t m hC ht hb hs hd hcl hout hstep => ?_⟩
  · exact forall_mem_of_moves (P := Device.NoBusError) hstep fun k d d' hd hm =>
      hm.noBusError hb (h d (List.mem_of_getElem? hd))
  · obtain ⟨-, -, -, hmoves⟩ := turn_moves hstep
    obtain ⟨m', hm', hmove⟩ := hmoves 0 m hd
    obtain ⟨htrans, houtcome⟩ := hmove.closedMaster hC hs hb hd ht ⟨hcl, hout⟩
    exact ⟨m', hm', htrans, houtcome⟩

end Sys2Proof.Machine

namespace Sys2Proof.Machine

/-! ### The one master and the slaves of a closed bus (R310) -/

section
variable {O : OadrLayout} {d d' : Device} {st : Stage}

theorem Stage.isConfigure_of_isConfigureMaster (h : st.isConfigureMaster = true) :
    st.isConfigure = true ∧ st.isConfigureSlave = false := by
  cases st with
  | configureMaster2 | configureMaster3 | configureMaster4 => exact ⟨rfl, rfl⟩
  | _ => cases h

/-- A stage that is no line of a configure. -/
theorem Stage.isConfigure_eq_false (h : st.isConfigure = false) :
    st.isConfigureMaster = false ∧ st.isConfigureSlave = false ∧ (∀ p k, st ≠ .configureMaster1 p k) ∧
      (∀ a, st ≠ .configureSlave1 a) ∧ (∀ a, st ≠ .configureSlave2 a) ∧ st ≠ .configureSlave3 := by
  cases st with
  | configureMaster1 | configureMaster2 | configureMaster3 | configureMaster4 | configureSlave1
  | configureSlave2 | configureSlave3 => cases h
  | _ => exact ⟨rfl, rfl, nofun, nofun, nofun, nofun⟩

theorem isMasterOfBus_of_stage (hr : d.role ≠ .slave) (hs : d.stage.isConfigure = false) :
    d.IsMasterOfBus := by
  obtain ⟨-, hcs, -, hcs1, -⟩ := Stage.isConfigure_eq_false hs
  exact ⟨hr, hcs, hcs1⟩

/-- The master keeps its place: no line of its engine is one of `configure_slave`. -/
theorem Device.ConfigStep.isMasterOfBus (hc : d.ConfigStep O d') (h : d.IsMasterOfBus) :
    d'.IsMasterOfBus := by
  obtain ⟨hrole, hcs, hcs1⟩ := h
  cases hc with
  | other hr _ hs =>
    obtain hs | hs := hs
    · exact ⟨hr ▸ hrole, hs ▸ hcs, hs ▸ hcs1⟩
    · exact isMasterOfBus_of_stage (hr ▸ hrole) hs
  | masterLine _ hr hs =>
    refine ⟨hr ▸ hrole, (Stage.isConfigure_of_isConfigureMaster hs).2, fun a ha => ?_⟩
    rw [ha] at hs; cases hs
  | masterDone _ hr hs => exact isMasterOfBus_of_stage (by rw [hr]; decide) (by rw [hs]; rfl)
  | slaveLine1 a hst => exact absurd hst (hcs1 a)
  | slaveLine2 a hst | slaveDone hst => rw [hst] at hcs; cases hcs

theorem isSlaveOfBus_of_stage (hr : d.role ≠ .master) (hs : d.stage.isConfigure = false)
    (ho : d.role = .slave → d.oadr = oadr8 O d.par.slaveAddr) : d.IsSlaveOfBus O := by
  obtain ⟨hcm, -, hcm1, hcs1, hcs2, hcs3⟩ := Stage.isConfigure_eq_false hs
  exact ⟨hr, hcm, hcm1, fun a ha => ha.elim (absurd · (hcs1 a)) (absurd · (hcs2 a)),
    fun h => h.elim (absurd · hcs3) ho⟩

/-- A slave keeps its place: its engine runs `configure_slave` of its own address only. -/
theorem Device.StageStep.isSlaveOfBus (hs : d.StageStep O d') (h : d.IsSlaveOfBus O) :
    d'.IsSlaveOfBus O := by
  obtain ⟨hpar, -, hc⟩ := hs
  obtain ⟨hrole, hcm, hcm1, haddr, hoadr⟩ := h
  cases hc with
  | other hr ho hs =>
    obtain hs | hs := hs
    · refine ⟨hr ▸ hrole, hs ▸ hcm, hs ▸ hcm1, ?_, ?_⟩
      · rw [hs, hpar]; exact haddr
      · rw [hs, hr, ho, hpar]; exact hoadr
    · refine isSlaveOfBus_of_stage (hr ▸ hrole) hs fun hslave => ?_
      rw [ho, hpar]
      exact hoadr (.inr (hr ▸ hslave))
  | masterLine hst =>
    obtain hst | ⟨p, k, hst⟩ := hst
    · rw [hst] at hcm; cases hcm
    · exact absurd hst (hcm1 p k)
  | masterDone hst => rw [hst] at hcm; cases hcm
  | slaveLine1 a hst hr ho hs =>
    have ha := haddr a (.inl hst)
    refine ⟨hr ▸ hrole, by rw [hs]; rfl, by rw [hs]; nofun, ?_, ?_⟩
    · rw [hs, hpar]
      rintro b (hb | hb) <;> cases hb
      exact ha
    · rw [hs, hr, ho, hpar]
      exact fun hx => hoadr (.inr (hx.resolve_left nofun))
  | slaveLine2 a hst hr ho hs =>
    have ha := haddr a (.inr hst)
    refine ⟨hr ▸ hrole, by rw [hs]; rfl, by rw [hs]; nofun, ?_, ?_⟩
    · rw [hs]
      rintro b (hb | hb) <;> cases hb
    · rw [ho, hpar, ha]
      exact fun _ => rfl
  | slaveDone hst hr ho hs =>
    refine isSlaveOfBus_of_stage (by rw [hr]; decide) (by rw [hs]; rfl) fun _ => ?_
    rw [ho, hpar]
    exact hoadr (.inl hst)

end

/-- The place of device `k` on a closed bus (R310). -/
def Device.InPlace (O : OadrLayout) (k : Nat) (d : Device) : Prop :=
  if k = 0 then d.IsMasterOfBus else d.IsSlaveOfBus O

/-- `d'` has the parameters of `d` and the place of device `k`. -/
structure Device.KeepsPlace (O : OadrLayout) (k : Nat) (d d' : Device) : Prop where
  par : d'.par = d.par
  place : d'.InPlace O k

section
variable {cfg : Config} {O : OadrLayout} {k : Nat} {d d' x : Device} {s : State} {t : Turn}

theorem Device.StageStep.keepsPlace (hs : d.StageStep O d') (h : d.InPlace O k) : d.KeepsPlace O k d' := by
  refine ⟨hs.par, ?_⟩
  unfold Device.InPlace at h ⊢
  split
  · rw [if_pos ‹_›] at h
    exact hs.config.isMasterOfBus h
  · rw [if_neg ‹_›] at h
    exact hs.isSlaveOfBus h

theorem Device.StaysConfigured.keepsPlace (hs : d.StaysConfigured d') (h : d.InPlace O k) :
    d.KeepsPlace O k d' :=
  (hs.stageStep (O := O)).keepsPlace h

theorem Eff.EndsWith.keepsPlace {e : Eff} {a : Agent} (he : e.EndsWith (d.StageStep O)) (h : d.InPlace O k) :
    d.KeepsPlace O k (e.settle a d) :=
  (he.mono fun _ hx => hx.keepsPlace h).settle (fun _ _ hx => ⟨hx.par, hx.place⟩) fun _ => ⟨rfl, h⟩

/-- Line 1 of what a host may issue on device `k` fits the device's place, if a `configure_slave` names its own
address (R215, R310; log entry 30). -/
theorem inPlace_line1 {i : Instr} {op : OpKind} {st : Stage} (hb : cfg.busMode = .closedBus)
    (hst : IsLine1 i op st) (hc : contextCheck (roleOnBus cfg k) .host op d = none)
    (hown : ∀ a, i = .configureSlave a → a = d.par.slaveAddr) (h : d.InPlace O k) :
    (d.goto st).InPlace O k := by
  have hmaster := contextCheck_host_master hc
  have hother : d.role ≠ .master → configuresOtherRole (roleOnBus cfg k) op = false := fun hr =>
    Bool.eq_false_iff.mpr fun h => by rw [contextCheck_otherRole hr h] at hc; cases hc
  have hno : d.role ≠ .master → op ≠ (if k = 0 then .configureSlave else .configureMaster) := fun hr hop => by
    have := (configuresOtherRole_iff cfg k op).mpr ⟨hb, hop⟩
    rw [hother hr] at this
    cases this
  have hcs : d.role = .master → op ≠ .configureSlave := by
    rintro hr rfl
    rw [contextCheck_master hr, if_neg (by decide)] at hc
    cases hc
  unfold Device.InPlace at h ⊢
  by_cases hk : k = 0
  · rw [if_pos hk] at h ⊢
    obtain ⟨hrole, -, -⟩ := h
    have hop : op ≠ .configureSlave := by
      by_cases hr : d.role = .master
      · exact hcs hr
      · simpa [hk] using hno hr
    cases hst with
    | configureSlave => exact absurd rfl hop
    | _ => exact ⟨hrole, rfl, nofun⟩
  · rw [if_neg hk] at h ⊢
    obtain ⟨hrole, -, -, -, hoadr⟩ := h
    have hop : op = .configureSlave := by
      by_contra hne
      exact hrole (hmaster (by simpa [hk] using hno hrole) hne)
    subst hop
    obtain ⟨a, rfl⟩ := hst.of_configureSlave
    cases hst
    refine ⟨hrole, rfl, nofun, ?_, fun hx => hoadr (.inr (hx.resolve_left nofun))⟩
    rintro b (hb | hb) <;> cases hb
    exact hown a rfl

theorem OpMove.keepsPlace {who : Issuer} {i : Instr} (hb : cfg.busMode = .closedBus)
    (hop : OpMove cfg k who i d d') (hown : ∀ a, i = .configureSlave a → a = d.par.slaveAddr)
    (h : d.InPlace cfg.chip.oadr k) : d.KeepsPlace cfg.chip.oadr k d' := by
  cases hop with
  | refused r => exact ⟨rfl, h⟩
  | line1 op st hst hw hc =>
    have hplace := inPlace_line1 hb hst hc hown h
    have hrun : (runStage cfg (d.goto st)).EndsWith (d.KeepsPlace cfg.chip.oadr k) :=
      (runStage_stageStep cfg (d.goto st)).mono fun _ hx =>
        have hkeep := hx.keepsPlace hplace
        ⟨hkeep.par, hkeep.place⟩
    exact hrun.settle (fun _ _ hx => ⟨hx.par, hx.place⟩) fun _ => ⟨rfl, h⟩
  | handlerLine op line hl =>
    exact ((line_staysConfigured hl).mono fun _ hx => hx.stageStep).keepsPlace h

/-- A step of a transceiver touches neither role nor stage nor address. -/
theorem Device.XcvrEffect.keepsPlace (he : d.XcvrEffect d') (h : d.InPlace O k) : d.KeepsPlace O k d' := by
  cases he <;> exact ⟨rfl, h⟩

theorem afterReset_inPlace (C : Chip) (par : DevParams) (n : Nat) :
    (Device.afterReset C par n).InPlace O k := by
  unfold Device.InPlace
  split
  · exact isMasterOfBus_of_stage nofun rfl
  · exact isSlaveOfBus_of_stage nofun rfl nofun

/-- Every move but a direct access. -/
theorem Move.keepsPlace (hb : s.cfg.busMode = .closedBus) (ht : t.isDirect = false)
    (hown : t.configuresOwnAddress s) (hd : s.devs[k]? = some d) (hm : Move s k d t d')
    (h : d.InPlace s.cfg.chip.oadr k) : d.KeepsPlace s.cfg.chip.oadr k d' := by
  cases hm with
  | stay | illegal | jointFault => exact ⟨rfl, h⟩
  | issue who w i _ _ hi hop =>
    exact hop.keepsPlace hb (fun a ha => hown k who w a d rfl (ha ▸ hi) hd) h
  | engine => exact (runStage_stageStep s.cfg d).keepsPlace h
  | handler action ha =>
    exact ((handlerInvocation_staysConfigured ha).mono fun _ hx => hx.stageStep).keepsPlace h
  | hostAct a => exact (hostAct_staysConfigured a d).keepsPlace h
  | directRefused | directRead | directWrite | directCtrl => cases ht
  | xcvr code b ho => rw [hb] at ho; cases ho
  | jointMaster _ _ _ _ _ hj => exact hj.effect.keepsPlace h
  | jointSlave _ _ _ _ hj => exact hj.effect.keepsPlace h
  | reset | resetAll => exact ⟨rfl, afterReset_inPlace _ _ _⟩

/-- A closed system is one in which every device is in its place. -/
theorem closedSystem_iff : s.ClosedSystem ↔
    s.cfg.busMode = .closedBus ∧ ParamsOk (s.devs.map (·.par)) ∧ s.devs ≠ [] ∧
      ∀ (k : Nat) (d : Device), s.devs[k]? = some d → d.InPlace s.cfg.chip.oadr k := by
  refine and_congr_right fun _ => and_congr_right fun _ => ⟨?_, fun ⟨hne, h⟩ => ?_⟩
  · rintro ⟨m, ds, hdevs, hm, hds⟩
    rw [hdevs]
    refine ⟨nofun, fun k d hd => ?_⟩
    cases k with
    | zero =>
      obtain rfl : m = d := by simpa using hd
      exact hm
    | succ k => exact hds d (List.mem_of_getElem? (i := k) hd)
  · obtain ⟨m, ds, hdevs⟩ := List.exists_cons_of_ne_nil hne
    rw [hdevs] at h
    refine ⟨m, ds, hdevs, h 0 m rfl, fun d hd => ?_⟩
    obtain ⟨k, hk⟩ := List.mem_iff_getElem?.mp hd
    exact h (k + 1) d hk

theorem State.ClosedSystem.after_stepTurn {s' : State} (hs : s.ClosedSystem) (ht : t.isDirect = false)
    (hown : t.configuresOwnAddress s) (hstep : stepTurn t s = .next s') : s'.ClosedSystem := by
  obtain ⟨hb, hpars, hne, hplace⟩ := closedSystem_iff.mp hs
  obtain ⟨hcfg, hlen, -, hmoves⟩ := turn_moves hstep
  have hkeeps : ∀ (k : Nat) (d' : Device), s'.devs[k]? = some d' →
      ∃ d : Device, s.devs[k]? = some d ∧ d.KeepsPlace s.cfg.chip.oadr k d' := fun k d' hd' => by
    obtain ⟨hk, -⟩ := List.getElem?_eq_some_iff.mp hd'
    have hd : s.devs[k]? = some s.devs[k] := List.getElem?_eq_getElem (hlen ▸ hk)
    obtain ⟨e, he, hm⟩ := hmoves k _ hd
    obtain rfl : d' = e := Option.some.inj (hd'.symm.trans he)
    exact ⟨_, hd, hm.keepsPlace hb ht hown hd (hplace k _ hd)⟩
  have hsame : s'.devs.map (·.par) = s.devs.map (·.par) := by
    refine List.ext_getElem (by simp [hlen]) fun k hk _ => ?_
    rw [List.length_map] at hk
    obtain ⟨d, hd, hkeep⟩ := hkeeps k _ (List.getElem?_eq_getElem hk)
    obtain ⟨_, hget⟩ := List.getElem?_eq_some_iff.mp hd
    simpa [hget] using hkeep.par
  refine closedSystem_iff.mpr ⟨hcfg ▸ hb, hsame ▸ hpars, fun hnil => hne ?_, fun k d' hd' => ?_⟩
  · rw [hnil] at hlen
    exact List.length_eq_zero_iff.mp hlen.symm
  · obtain ⟨d, -, hkeep⟩ := hkeeps k d' hd'
    exact hcfg ▸ hkeep.place

/-- What a host may not issue on a device that is no master (R215.1, R215.3; log entry 30). -/
theorem contextCheck_of_slaveOfBus {op : OpKind} (hb : cfg.busMode = .closedBus) (hk : k ≠ 0)
    (hr : d.role ≠ .master) (hop : op ≠ .configureSlave) :
    ∃ r, contextCheck (roleOnBus cfg k) .host op d = some r := by
  by_cases hcm : op = .configureMaster
  · exact ⟨_, contextCheck_otherRole hr
      ((configuresOtherRole_iff cfg k op).mpr ⟨hb, by rw [if_neg hk]; exact hcm⟩)⟩
  · have hno : ¬ (op = .configureMaster ∨ op = .configureSlave) := not_or.mpr ⟨hcm, hop⟩
    cases hrole : d.role with
    | unconfigured => exact ⟨_, contextCheck_unconfigured hrole (.inl hno)⟩
    | master => exact absurd hrole hr
    | slave => exact ⟨_, contextCheck_slave_host hrole hno⟩

end

/-- Settles O59: every move keeps its device in its place; on a device that is no master `contextCheck`
refuses all but `configure_slave`; after reset every device is unconfigured and at rest. -/
theorem closedBusKeepsItsOneMaster : Obligations.ClosedBusKeepsItsOneMaster := by
  refine ⟨fun s s' t ht hown hs hstep => hs.after_stepTurn ht hown hstep,
    fun s k d w i hs hd hh hw hne => ?_, fun cfg p pars hb hpars => ?_⟩
  · obtain ⟨hb, -, -, hplace⟩ := closedSystem_iff.mp hs
    obtain ⟨hrole, -⟩ : d.IsSlaveOfBus s.cfg.chip.oadr := hplace (k + 1) d hd
    obtain ⟨op, hop⟩ := decodeOp_opKind hw
    have hopne : op ≠ .configureSlave := by
      rintro rfl
      cases i <;> cases hop
      exact hne _ rfl
    obtain ⟨r, hc⟩ := contextCheck_of_slaveOfBus (d := d) hb k.succ_ne_zero hrole hopne
    refine ⟨r, ?_⟩
    rw [stepTurn_issue_host hd hh, hw]
    exact exec_of_contextCheck (s := s.focus (k + 1) .host) hd hc hop
  · refine closedSystem_iff.mpr ⟨hb, ?_, nofun, fun k d hd => ?_⟩
    · rwa [State.resetWith, List.map_map, show ((·.par) ∘ fun q => Device.afterReset cfg.chip q 0) = id from rfl,
        List.map_id]
    · obtain ⟨q, -, rfl⟩ := List.mem_map.mp (List.mem_of_getElem? hd)
      exact afterReset_inPlace _ _ _

end Sys2Proof.Machine

namespace Sys2Proof.Machine

/-! ### Joint steps, one kind at a time (R313–R319) -/

/-- A closed bus on which a joint step may be taken: the clock is held by nobody (R313). -/
structure State.JointReady (s : State) (m : Device) (ds : List Device) : Prop where
  closed : s.cfg.busMode = .closedBus
  devs : s.devs = m :: ds
  halted : m.halted .xcvr = false
  en : m.ctrl.en = true
  int : m.ctrl.int = false
  slaves : ∀ d ∈ ds, d.ctrl.int = false

section
variable {s : State} {O : OadrLayout} {m : Device} {ds : List Device} {b : BusMove}

theorem State.JointReady.step (h : s.JointReady m ds)
    (hm : jointMove s.cfg.chip.oadr { master := m, slaves := ds, target := s.target } = some b) :
    stepTurn .joint s = .next (s.setBus b) :=
  stepTurn_joint_of_move h.closed h.devs (jointEnabled_of h.en h.int h.halted h.slaves) hm

/-- A joint turn with the clock held (R313, R345). -/
theorem stepTurn_joint_of_held (hb : s.cfg.busMode = .closedBus) (hdevs : s.devs = m :: ds)
    (he : jointEnabled { master := m, slaves := ds, target := s.target } = false) :
    stepTurn .joint s = .next s := by
  rw [stepTurn_joint hb]
  simp only [jointStep, hdevs, he, Bool.false_eq_true, if_false]

/-- A joint turn with no command pending at the master. -/
theorem stepTurn_joint_of_noCommand (hb : s.cfg.busMode = .closedBus) (hdevs : s.devs = m :: ds)
    (hp : m.pend = .none) : stepTurn .joint s = .next s := by
  cases he : jointEnabled { master := m, slaves := ds, target := s.target } with
  | false => exact stepTurn_joint_of_held hb hdevs he
  | true =>
    have hmove : jointMove s.cfg.chip.oadr { master := m, slaves := ds, target := s.target } =
        some { master := m, slaves := ds, target := s.target } := by simp [jointMove, hp]
    rw [stepTurn_joint_of_move hb hdevs he hmove, State.setBus, ← hdevs]

end

section
variable {O : OadrLayout} {m : BusMove} {k : Nat} {d : Device}

theorem jointMove_of_start (hp : m.master.pend = .start) : jointMove O m = some (jointStart m) := by
  simp [jointMove, hp]

theorem jointMove_of_stop (hp : m.master.pend = .stop ∨ m.master.pend = .stopThenStart) :
    jointMove O m = some (jointStop m) := by
  obtain hp | hp := hp <;> simp [jointMove, hp]

theorem jointMove_of_transmit {t : Byte} (hp : m.master.pend = .byte) (hr : m.master.phase.isMt = true)
    (ht : m.master.txbyte = some t) : jointMove O m = jointTransmit t m := by
  have hno : m.master.phase.isAddr = false := by revert hr; cases m.master.phase <;> decide
  simp [jointMove, hp, hno, hr, ht]

theorem targetSlave_of_target (ht : m.target = some (k + 1)) (hd : m.slaves[k]? = some d) :
    targetSlave m = some (k + 1, d) := by
  simp [targetSlave, ht, slaveAt, hd]

theorem targetSlave_of_none (ht : m.target = none) : targetSlave m = none := by simp [targetSlave, ht]

/-! ### Start and stop (R314, R319) -/

/-- The addressed slave sees 0xA0; after a stop only if its byte step is pending. -/
theorem endTransfer_of_addressed {needByte : Bool} (hs : targetSlave m = some (k + 1, d))
    (ha : d.phase.isAddressed = true) (hp : needByte = true → d.pend = .byte) :
    endTransfer m needByte = { m with slaves := m.slaves.set k (d.event .srStop), target := none } := by
  have hc : (d.phase.isAddressed && (!needByte || d.pend == .byte)) = true := by
    cases needByte <;> simp_all
  simp [endTransfer, hs, hc, setSlave]

theorem endTransfer_of_other {needByte : Bool} (hs : targetSlave m = some (k + 1, d))
    (hno : d.phase.isAddressed = false ∨ needByte = true ∧ d.pend ≠ .byte) :
    endTransfer m needByte = { m with target := none } := by
  have hc : (d.phase.isAddressed && (!needByte || d.pend == .byte)) = false := by
    obtain hno | ⟨rfl, hno⟩ := hno <;> simp [hno]
  simp [endTransfer, hs, hc]

theorem endTransfer_of_none {needByte : Bool} (ht : m.target = none) :
    endTransfer m needByte = { m with target := none } := by
  simp [endTransfer, targetSlave_of_none ht]

theorem jointStart_of_free (ho : m.master.phase.isOwner = false) :
    jointStart m = { m with master := m.master.event .start } := by
  simp [jointStart, ho]

theorem jointStart_of_owner (ho : m.master.phase.isOwner = true) :
    jointStart m = { endTransfer m false with master := m.master.event .repStart } := by
  simp [jointStart, ho]

/-- The stop's effect at the master, with the pending command written out (R156). -/
theorem executeStop_eq (d : Device) (hp : d.pend = .stop ∨ d.pend = .stopThenStart) :
    executeStop d = { d with
      phase := .noInfo, pend := if d.pend = .stopThenStart then .start else .none
      ctrl := { d.ctrl with sto := false } } := by
  obtain hp | hp := hp <;> rw [executeStop, hp] <;> rfl

end

/-- Settles O39: what holds the clock makes `jointEnabled` false; a start and a stop are `jointStart` and
`jointStop`, which differ in what the addressed slave sees. -/
theorem jointStepsHoldStartAndStop : Obligations.JointStepsHoldStartAndStop := by
  refine ⟨fun s m ds hb hdevs h => ?_, fun s m ds hb hdevs hh hen hint hslaves => ?_⟩
  · by_cases hp : m.pend = .none
    · exact stepTurn_joint_of_noCommand hb hdevs hp
    · refine stepTurn_joint_of_held hb hdevs (Bool.eq_false_iff.mpr fun he => ?_)
      simp only [jointEnabled, Bool.and_eq_true, Bool.not_eq_true', List.all_eq_true] at he
      obtain ⟨⟨⟨hen, hint⟩, hh⟩, hslaves⟩ := he
      obtain ⟨d, hd, hi⟩ | h | h | h | h := h
      · rw [hslaves d hd] at hi; cases hi
      · rw [hint] at h; cases h
      · rw [hen] at h; cases h
      · rw [hh] at h; cases h
      · exact hp h
  · intro started stopped ended isStop
    have hready : s.JointReady m ds := ⟨hb, hdevs, hh, hen, hint, hslaves⟩
    let b : BusMove := { master := m, slaves := ds, target := s.target }
    have hstop : isStop → ∀ {e : BusMove}, endTransfer b true = e →
        stepTurn .joint s = .next (s.setBus { e with master := stopped }) := by
      rintro hp e rfl
      rw [hready.step (jointMove_of_stop hp), jointStop, executeStop_eq m hp]
    have hrepeat : m.pend = .start → m.phase.isOwner = true → ∀ {e : BusMove}, endTransfer b false = e →
        stepTurn .joint s = .next (s.setBus { e with master := started .repStart }) := by
      rintro hp ho e rfl
      rw [hready.step (jointMove_of_start hp), jointStart_of_owner ho]
      rfl
    refine ⟨fun hp ho => ?_, fun k d ht hd => ⟨fun hp ho => ⟨fun ha => ?_, fun ha => ?_⟩,
      fun hp => ⟨fun ha hd' => ?_, fun ha => ?_⟩⟩, fun ht => ⟨fun hp ho => ?_, fun hp => ?_⟩⟩
    · rw [hready.step (jointMove_of_start hp), jointStart_of_free ho]
      rfl
    · exact hrepeat hp ho (endTransfer_of_addressed (targetSlave_of_target ht hd) ha nofun)
    · exact hrepeat hp ho (endTransfer_of_other (targetSlave_of_target ht hd) (.inl ha))
    · exact hstop hp (endTransfer_of_addressed (targetSlave_of_target ht hd) ha fun _ => hd')
    · exact hstop hp (endTransfer_of_other (targetSlave_of_target ht hd) (ha.imp_right fun hd' => ⟨rfl, hd'⟩))
    · rw [hrepeat hp ho (endTransfer_of_none ht), ← ht]
      rfl
    · rw [hstop hp (endTransfer_of_none ht), ← ht]
      rfl

/-! ### The address byte (R315) -/

section
variable {O : OadrLayout} {a : Addr} {t : Byte} {m : BusMove}

theorem answers_iff (d : Device) : answers O a d = true ↔
    d.ctrl.en = true ∧ d.ctrl.ea = true ∧ d.ownAddr O = a ∧ d.phase = .noInfo ∧ d.pend = .none := by
  simp [answers, and_assoc]

theorem answering_of_nobody (k : Nat) {l : List Device} (h : ∀ d ∈ l, answers O a d = false) :
    answering O a k l = [] := by
  induction l generalizing k with
  | nil => rfl
  | cons d ds ih =>
    rw [List.forall_mem_cons] at h
    simp [answering, h.1, ih _ h.2]

/-- Only the `i`-th slave answers. -/
theorem answering_of_one (k : Nat) {l : List Device} {i : Nat} {d : Device} (hd : l[i]? = some d)
    (ha : answers O a d = true) (honly : ∀ j e, l[j]? = some e → answers O a e = true → j = i) :
    answering O a k l = [k + i] := by
  induction l generalizing k i with
  | nil => cases hd
  | cons e es ih =>
    cases i with
    | zero =>
      obtain rfl : e = d := by simpa using hd
      have hrest : ∀ x ∈ es, answers O a x = false := fun x hx => by
        obtain ⟨j, hj⟩ := List.mem_iff_getElem?.mp hx
        exact Bool.eq_false_iff.mpr fun hax => nomatch honly (j + 1) x hj hax
      simp [answering, ha, answering_of_nobody _ hrest]
    | succ i =>
      have he : answers O a e = false := Bool.eq_false_iff.mpr fun hae => nomatch honly 0 e rfl hae
      have hes := ih (k + 1) (i := i) hd fun j x hj hax => Nat.succ.inj (honly (j + 1) x hj hax)
      rw [answering, he, if_neg Bool.false_ne_true, hes, Nat.add_right_comm, Nat.add_assoc]

theorem jointAddress_of_nobody (h : ∀ d ∈ m.slaves, answers O (t.extractLsb' 1 7) d = false) :
    jointAddress O t m = { m with
      master := m.master.event (if t.getLsbD 0 then .mrSlaNack else .mtSlaNack), target := none } := by
  simp only [jointAddress, answering_of_nobody 1 h]

theorem jointAddress_of_one {k : Nat} {d : Device} (hd : m.slaves[k]? = some d)
    (ha : answers O (t.extractLsb' 1 7) d = true)
    (honly : ∀ j e, m.slaves[j]? = some e → answers O (t.extractLsb' 1 7) e = true → j = k) :
    jointAddress O t m =
      { master := m.master.event (if t.getLsbD 0 then .mrSlaAck else .mtSlaAck)
        slaves := m.slaves.set k (d.event (if t.getLsbD 0 then .stSlaAck else .srSlaAck))
        target := some (k + 1) } := by
  have hslave : slaveAt m.slaves (k + 1) = some d := hd
  simp only [jointAddress, answering_of_one 1 hd ha honly, Nat.add_comm 1 k, hslave, setSlave,
    Nat.add_sub_cancel]

end

/-- Settles O40: the list of answering slaves has one member, or none. -/
theorem jointAddressByte : Obligations.JointAddressByte := by
  intro s m ds t hb hdevs hh hen hint hslaves hp ha ht master hears
  have hready : s.JointReady m ds := ⟨hb, hdevs, hh, hen, hint, hslaves⟩
  have hiff : ∀ d, answers s.cfg.chip.oadr (t.extractLsb' 1 7) d = true ↔ hears d := answers_iff
  have hstep := hready.step (jointMove_of_address hp ha ht)
  refine ⟨fun k d hd hd' honly => ?_, fun hno => ?_⟩
  · rw [hstep, jointAddress_of_one hd ((hiff d).mpr hd') fun j e hj he => honly j e hj ((hiff e).mp he)]
    rfl
  · rw [hstep, jointAddress_of_nobody fun d hd => Bool.eq_false_iff.mpr fun h => hno d hd ((hiff d).mp h)]
    rfl

/-! ### Data bytes (R316, R317) -/

section
variable {t : Byte} {m : BusMove} {k : Nat} {d : Device} {a ackM : Bool}

theorem jointTransmit_of_receiver (hs : targetSlave m = some (k + 1, d)) (hr : d.phase.isSrOwn = true)
    (hp : d.pend = .byte) (ha : d.ack = some a) :
    jointTransmit t m = some { m with
      master := m.master.event (if a then .mtDataAck else .mtDataNack)
      slaves := m.slaves.set k (({ d with data := t } : Device).event (if a then .srDataAck else .srDataNack)) } := by
  simp [jointTransmit, hs, hr, hp, ha, setSlave]

theorem jointTransmit_of_noReceiver (h : ∀ k d, targetSlave m = some (k, d) →
    d.phase.isSrOwn = false ∨ d.pend ≠ .byte) :
    jointTransmit t m = some { m with master := m.master.event .mtDataNack } := by
  cases hs : targetSlave m with
  | none => simp [jointTransmit, hs]
  | some x =>
    obtain ⟨k, d⟩ := x
    have hc : (d.phase.isSrOwn && d.pend == .byte) = false := by
      obtain h | h := h k d hs <;> simp [h]
    simp [jointTransmit, hs, hc]

theorem jointReceive_of_sender (hs : targetSlave m = some (k + 1, d)) (hr : d.phase.isSt = true)
    (hp : d.pend = .byte) (ha : d.ack = some a) (ht : d.txbyte = some t) :
    jointReceive ackM m = some { m with
      master := ({ m.master with data := t } : Device).event (if ackM then .mrDataAck else .mrDataNack)
      slaves := m.slaves.set k
        (d.event (if ackM then (if a then .stDataAck else .stLastData) else .stDataNack)) } := by
  cases ackM <;> simp [jointReceive, receiveEvent, hs, hr, hp, ha, ht, setSlave]

theorem jointReceive_of_noSender (h : ∀ k d, targetSlave m = some (k, d) →
    d.phase.isSt = false ∨ d.pend ≠ .byte) :
    jointReceive ackM m = some { m with
      master := ({ m.master with data := 0xFF } : Device).event (if ackM then .mrDataAck else .mrDataNack) } := by
  cases hs : targetSlave m with
  | none => simp [jointReceive, hs]
  | some x =>
    obtain ⟨k, d⟩ := x
    have hc : (d.phase.isSt && d.pend == .byte) = false := by
      obtain h | h := h k d hs <;> simp [h]
    simp [jointReceive, hs, hc]

/-- Nobody is addressed, or the addressed slave is not in a state that `P` names. -/
theorem forall_targetSlave {P : Device → Prop}
    (h : m.target = none ∨ ∃ k d, m.target = some (k + 1) ∧ m.slaves[k]? = some d ∧ P d) :
    ∀ k d, targetSlave m = some (k, d) → P d := by
  intro k d hs
  obtain ht | ⟨j, e, ht, he, hP⟩ := h
  · rw [targetSlave_of_none ht] at hs
    cases hs
  · rw [targetSlave_of_target ht he] at hs
    cases hs
    exact hP

end

/-- Settles O41: the addressed slave takes the byte, or there is no receiver. -/
theorem jointTransmitByte : Obligations.JointTransmitByte := by
  intro s m ds t hb hdevs hh hen hint hslaves hp hm ht master
  have hready : s.JointReady m ds := ⟨hb, hdevs, hh, hen, hint, hslaves⟩
  let b : BusMove := { master := m, slaves := ds, target := s.target }
  have hmove : jointMove s.cfg.chip.oadr b = jointTransmit t b := jointMove_of_transmit hp hm ht
  refine ⟨fun k d a htgt hd hr hd' ha => ?_, fun hno => ?_⟩
  · exact hready.step (hmove.trans (jointTransmit_of_receiver (targetSlave_of_target htgt hd) hr hd' ha))
  · exact hready.step (hmove.trans (jointTransmit_of_noReceiver (forall_targetSlave hno)))

/-- Settles O42: the addressed slave sends the byte, or the released bus reads as ones. -/
theorem jointReceiveByte : Obligations.JointReceiveByte := by
  intro s m ds ackM hb hdevs hh hen hint hslaves hp hm hack master
  have hready : s.JointReady m ds := ⟨hb, hdevs, hh, hen, hint, hslaves⟩
  let b : BusMove := { master := m, slaves := ds, target := s.target }
  have hmove : jointMove s.cfg.chip.oadr b = jointReceive ackM b := jointMove_of_receive hp hm hack
  refine ⟨fun k d a t htgt hd hr hd' ha ht => ?_, fun hno => ?_⟩
  · exact hready.step (hmove.trans (jointReceive_of_sender (targetSlave_of_target htgt hd) hr hd' ha ht))
  · exact hready.step (hmove.trans (jointReceive_of_noSender (forall_targetSlave hno)))

end Sys2Proof.Machine

namespace Sys2Proof.Machine

/-! ### Turns of a closed bus with one slave (R310) -/

/-- The system with the master `m` and the one slave `d`, its `bus.target` and who moves. -/
def State.pair (s : State) (m d : Device) (target : Option Nat) (k : Nat) (who : Issuer) : State :=
  { s with devs := [m, d], target := target, cur := k, issuer := who }

/-- The turns `ts` lead from `s` to `s'`. -/
def State.Reaches (s : State) (ts : List Turn) (s' : State) : Prop :=
  ∀ rest, runTurns (ts ++ rest) s = runTurns rest s'

theorem State.after_eq_pair {s : State} {m0 d : Device} (hdevs : s.devs = [m0, d]) (m : Device) :
    s.after 0 .host m = s.pair m d s.target 0 .host := by
  rw [State.after, hdevs]
  rfl

section
variable {s s' s'' : State} {ts us : List Turn} {t : Turn}

theorem State.Reaches.trans (h : s.Reaches ts s') (h' : s'.Reaches us s'') : s.Reaches (ts ++ us) s'' := by
  intro rest
  rw [List.append_assoc, h, h']

theorem State.Reaches.runTurns_eq (h : s.Reaches ts s') : runTurns ts s = .next s' := by
  simpa using h []

theorem reaches_of_step (h : stepTurn t s = .next s') : s.Reaches [t] s' := fun _ => runTurns_cons_next h

theorem State.RunsTo.reaches {k : Nat} {d : Device} (h : s.RunsTo k ts d) : s.Reaches ts (s.after k .host d) :=
  h.run

theorem Device.halted_of_faults {d : Device} (h : d.faults = []) (a : Agent) : d.halted a = false := by
  simp [Device.halted, h]

/-- A byte word (R144, R205). -/
theorem State.RunsTo.byteWord {k : Nat} {d e : Device} {st w : Stage} (h : s.RunsTo k ts d)
    (hd : s.devs[k]? = some e) (hC : s.standard) (hst : d.stage = st) (hg : (st, 0x84, w) ∈ goStages)
    (hi : d.ctrl.int = true) (hp : d.phase.takesByte = true) :
    s.RunsTo k (ts ++ [.engine k]) (d.byteStep.goto w) :=
  h.engine_turn hd ((runStage_of_go hC hst hg).trans (ctrlThen_done (ctrlWrite_byteStep hC hi hp))) rfl

/-- A test that accepts the code (R241). -/
theorem State.RunsTo.testPassed {k : Nat} {d e : Device} {st good bad : Stage} {acc : List Status}
    (h : s.RunsTo k ts d) (hd : s.devs[k]? = some e) (hC : s.standard) (hi : d.ctrl.int = true)
    (hst : d.stage = st) (ht : (st, acc, good, bad) ∈ testStages) (hmem : d.phase ∈ acc) :
    s.RunsTo k (ts ++ [.engine k]) (d.tested.goto good) := by
  have htest := h.test hd hC hi hst ht
  rwa [if_pos hmem] at htest

/-- The transaction has ended with the outcome `o`, and the device holds the bus with a stop pending (R246,
R247, R255). -/
structure Device.Stopping (d : Device) (o : EngOutcome) : Prop where
  outcome : d.eng.outcome = some o
  stage : d.stage = .idle
  pend : d.pend = .stop
  en : d.ctrl.en = true
  int : d.ctrl.int = false
  faults : d.faults = []

theorem State.RunsTo.stops {k : Nat} {d e : Device} {o : EngOutcome} (h : s.RunsTo k ts d)
    (hd : s.devs[k]? = some e) (hC : s.standard) (ho : EndsWithOutcome s.cfg d o) (hi : d.ctrl.int = true)
    (hp : d.pend = .none) (hphase : d.phase.isOwner = true) (hf : d.faults = []) :
    ∃ d', s.RunsTo k (ts ++ [.engine k]) d' ∧ d'.Stopping o := by
  have hrun := (runStage_of_end ho).trans
    (stopWith_done hC (ctrlWrite_stopStep hC (d.busy_of_int hi) (by rw [hp]; rfl)))
  rw [stopStep_of_owner hphase] at hrun
  exact ⟨_, h.engine_turn hd hrun rfl, rfl, rfl, rfl, rfl, rfl, hf⟩

end

section
variable {s : State} {m : Device} (d : Device) (target : Option Nat) (k : Nat) (who : Issuer) (hf : m.faults = [])
include hf

/-- A first engine turn of the master. -/
theorem pair_engine {m' : Device} (hr : runStage s.cfg m = .done m') (hf' : m'.faults = m.faults) :
    (s.pair m d target k who).RunsTo 0 [.engine 0] m' := by
  have hf'' : m'.faults = [] := hf'.trans hf
  exact ⟨reaches_of_step (stepTurn_engine_done (d := m) rfl (m.halted_of_faults hf _) hr),
    m'.halted_of_faults hf'' _, m'.halted_of_faults hf'' _⟩

/-- A first engine turn that ends a hold. -/
theorem pair_hold {w nxt : Stage} (hi : m.ctrl.int = true) (hst : m.stage = w) (hw : (w, nxt) ∈ holdStages) :
    (s.pair m d target k who).RunsTo 0 [.engine 0] (m.goto nxt) :=
  pair_engine d target k who hf ((runStage_of_hold hst hw).trans (hold_of_int hi)) rfl

end

/-! ### Joint turns -/

section
variable {s : State} {m m' d d' : Device} {target target' : Option Nat} {k : Nat} {who : Issuer}
  (hb : s.cfg.busMode = .closedBus) (hf : m.faults = []) (hen : m.ctrl.en = true) (hint : m.ctrl.int = false)
  (hd : d.ctrl.int = false)
include hb hf hen hint hd

/-- A joint step that is enabled. -/
theorem pair_joint (hm : jointMove s.cfg.chip.oadr { master := m, slaves := [d], target := target } =
      some { master := m', slaves := [d'], target := target' }) :
    (s.pair m d target k who).Reaches [.joint] (s.pair m' d' target' k who) := by
  have hready : (s.pair m d target k who).JointReady m [d] :=
    ⟨hb, rfl, m.halted_of_faults hf _, hen, hint, by simpa using hd⟩
  exact reaches_of_step (hready.step hm)

/-- A start off the bus (R314). -/
theorem pair_jointStart (hp : m.pend = .start) (ho : m.phase.isOwner = false) :
    (s.pair m d target k who).Reaches [.joint] (s.pair (m.event .start) d target k who) :=
  pair_joint hb hf hen hint hd ((jointMove_of_start hp).trans (congrArg some (jointStart_of_free ho)))

/-- A stop (R319). -/
theorem pair_jointStop (hp : m.pend = .stop)
    (he : endTransfer { master := m, slaves := [d], target := target } true =
      { master := m, slaves := [d'], target := none }) :
    (s.pair m d target k who).Reaches [.joint] (s.pair (executeStop m) d' none k who) := by
  refine pair_joint hb hf hen hint hd ((jointMove_of_stop (.inl hp)).trans ?_)
  rw [jointStop, he]

end

/-! ### The start and the address byte of a transaction (R314, R315) -/

/-- The engine waits in `st`, and the event `c` is pending. -/
structure Device.Told (m : Device) (st : Stage) (c : Status) : Prop where
  stage : m.stage = st
  phase : m.phase = c
  int : m.ctrl.int = true
  pend : m.pend = .none
  faults : m.faults = []

/-- The master that waits for the answer to its address byte. -/
def Device.sendingAddress (m : Device) (addr : Addr) (dir : Bool) : Device :=
  ((((((m.startStep.goto (addressStages dir).startWait).event .start).goto (addressStages dir).load).loaded
    (sla8 addr dir)).goto (addressStages dir).go).byteStep).goto (addressStages dir).wait

theorem sendingAddress_told {m : Device} (hf : m.faults = []) (addr : Addr) (dir : Bool) (c : Status) :
    ((m.sendingAddress addr dir).event c).Told (addressStages dir).wait c := ⟨rfl, rfl, rfl, rfl, hf⟩

section
variable {s : State} {m d : Device} {target : Option Nat} {k : Nat} {who : Issuer} {addr : Addr} {dir : Bool}
  (hC : s.standard) (hb : s.cfg.busMode = .closedBus) (hf : m.faults = []) (hs : m.StartsAt addr dir)
  (hd : d.ctrl.int = false)
include hC hb hf hs hd

/-- The start and the address byte, whatever the slave answers. -/
theorem pair_address {m' d' : Device} {target' : Option Nat}
    (hj : jointAddress standardOadr (sla8 addr dir)
        { master := m.sendingAddress addr dir, slaves := [d], target := target } =
      { master := m', slaves := [d'], target := target' }) :
    (s.pair m d target k who).Reaches [.engine 0, .joint, .engine 0, .engine 0, .engine 0, .joint]
      (s.pair m' d' target' 0 .host) := by
  obtain ⟨hstage, haddr, hpend, hphase⟩ := hs
  obtain ⟨hstartGo, haddrGo⟩ := addressStages_go dir
  obtain ⟨hstartWait, -⟩ := addressStages_hold dir
  let m1 := m.startStep.goto (addressStages dir).startWait
  have hgo : (s.pair m d target k who).RunsTo 0 [.engine 0] m1 :=
    pair_engine d target k who hf ((runStage_of_go hC hstage hstartGo).trans (ctrlThen_done (ctrlWrite_startStep hC
      (by simp [Device.busy, hpend]) (by simp [hpend, Pend.isStop])))) rfl
  have hstart : (s.pair m1 d target 0 .host).Reaches [.joint] (s.pair (m1.event .start) d target 0 .host) :=
    pair_jointStart (m := m1) hb hf rfl rfl hd rfl (by show m.phase.isOwner = false; rw [hphase]; rfl)
  have hhold := pair_hold (s := s) (m := m1.event .start) d target 0 .host hf rfl rfl hstartWait
  have hload := hhold.load rfl (addressStages_loads dir rfl haddr) rfl
  have hbyte := hload.byteWord rfl hC rfl haddrGo rfl rfl
  have hjoint : (s.pair (m.sendingAddress addr dir) d target 0 .host).Reaches [.joint]
      (s.pair m' d' target' 0 .host) := by
    refine pair_joint hb hf rfl rfl hd ((jointMove_of_address (t := sla8 addr dir) rfl rfl rfl).trans ?_)
    rw [hC]
    exact congrArg some hj
  exact hgo.reaches.trans (hstart.trans (hbyte.reaches.trans hjoint))

/-- The address byte is acknowledged (R315). -/
theorem pair_addressAck (ha : answers standardOadr addr d = true) :
    ∃ m', (s.pair m d target k who).Reaches [.engine 0, .joint, .engine 0, .engine 0, .engine 0, .joint]
        (s.pair m' (d.event (if dir then .stSlaAck else .srSlaAck)) (some 1) 0 .host) ∧
      m'.Told (addressStages dir).wait (if dir then .mrSlaAck else .mtSlaAck) ∧ m'.eng.cmd = m.eng.cmd := by
  obtain ⟨hdir, haddr⟩ := sla8_fields addr dir
  refine ⟨_, pair_address hC hb hf hs hd ((jointAddress_of_one (k := 0) rfl (by rwa [haddr]) ?_).trans ?_),
    sendingAddress_told hf addr dir _, rfl⟩
  · rintro (_ | _) e he - <;> cases he
    rfl
  · rw [hdir]
    rfl

/-- Nobody answers the address byte (R315). -/
theorem pair_addressNack (ha : answers standardOadr addr d = false) :
    ∃ m', (s.pair m d target k who).Reaches [.engine 0, .joint, .engine 0, .engine 0, .engine 0, .joint]
        (s.pair m' d none 0 .host) ∧
      m'.Told (addressStages dir).wait (if dir then .mrSlaNack else .mtSlaNack) := by
  obtain ⟨hdir, haddr⟩ := sla8_fields addr dir
  refine ⟨_, pair_address hC hb hf hs hd ((jointAddress_of_nobody (by simpa [haddr] using ha)).trans ?_),
    sendingAddress_told hf addr dir _⟩
  rw [hdir]

/-- A transaction to an address that nobody answers to ends in `NoAck`, its stop pending (R255, R321). -/
theorem pair_refused (ha : answers standardOadr addr d = false) :
    ∃ m', (s.pair m d target k who).Reaches
        ([.engine 0, .joint, .engine 0, .engine 0, .engine 0, .joint] ++ [.engine 0, .engine 0, .engine 0])
        (s.pair m' d none 0 .host) ∧ m'.Stopping (.noAck (if dir then 0x48 else 0x20)) := by
  obtain ⟨m1, hnack, hst, hphase, hint, hpend, hfaults⟩ :=
    pair_addressNack (target := target) (k := k) (who := who) hC hb hf hs hd ha
  obtain ⟨-, haddrWait⟩ := addressStages_hold dir
  have htest := (pair_hold (s := s) d none 0 .host hfaults hint hst haddrWait).test rfl hC hint rfl
    (addressStages_test dir)
  have hno : (if dir then Status.mrSlaNack else .mtSlaNack) ∉ (addressStages dir).accept := by
    clear * -
    revert dir
    decide
  rw [if_neg (show (m1.goto (addressStages dir).test).phase ∉ _ from hphase ▸ hno)] at htest
  obtain ⟨m', hrun, hm'⟩ := htest.stops rfl hC (endsWithOutcome_abort hC (addressStages_bad dir) rfl) hint hpend
    (by show m1.phase.isOwner = true; rw [hphase]; cases dir <;> rfl) hfaults
  have hclass : classify standardStatus m1.phase.code = .noAck (if dir then 0x48 else 0x20) := by
    rw [hphase]
    cases dir <;> rfl
  exact ⟨m', hnack.trans hrun.reaches, hclass ▸ hm'⟩

end

/-! ### Turns of the slave's handler (R280, R283–R286) -/

/-- A booted slave between two invocations of its handler (R201, R323). -/
structure Device.Armed (d : Device) : Prop where
  role : d.role = .slave
  ctrl : d.ctrl = Ctrl.ofByte standardCtrl 0x45
  gie : d.gie = true
  faults : d.faults = []

/-- The slave has answered the event `c` and waits for its master's next byte step (R283, R285). -/
def Device.awaiting (d : Device) (c : Status) : Device :=
  { d with phase := c, ack := some true, pend := .byte }

section
variable {s : State} {m d : Device} {target : Option Nat} {k : Nat} {who : Issuer} {c : Status}
  (h : d.Armed)
include h

theorem Device.Armed.int : d.ctrl.int = false := by rw [h.ctrl]; rfl

theorem Device.Armed.answers_iff {addr : Addr} :
    answers standardOadr addr d = true ↔
      d.oadr.extractLsb' 1 7 = addr ∧ d.phase = .noInfo ∧ d.pend = .none := by
  have hon : d.ctrl.en = true ∧ d.ctrl.ea = true := by rw [h.ctrl]; exact ⟨rfl, rfl⟩
  rw [Machine.answers_iff]
  exact ⟨fun hd => hd.2.2, fun hd => ⟨hon.1, hon.2, hd⟩⟩

theorem Device.Armed.en_event : (d.event c).ctrl.en = true := by
  rw [Device.event, h.ctrl]
  rfl

theorem Device.Armed.handlerEnabled_event : (d.event c).handlerEnabled = true := by
  have hie : (d.event c).ctrl.ie = true := by
    rw [Device.event, h.ctrl]
    rfl
  exact (d.event c).handlerEnabled_iff.mpr
    ⟨h.role, rfl, hie, h.en_event, h.gie, (d.event c).halted_of_faults h.faults _⟩

theorem Device.Armed.listening_event : returnFromInterrupt (d.event c).listening = d.awaiting c := by
  obtain ⟨hrole, hctrl, hgie, hfaults⟩ := h
  cases d
  cases hctrl
  cases hgie
  rfl

theorem Device.Armed.replying_event :
    returnFromInterrupt ((d.event c).loaded d.resp).replying =
      { d.awaiting c with data := d.resp, txbyte := some d.resp } := by
  obtain ⟨hrole, hctrl, hgie, hfaults⟩ := h
  cases d
  cases hctrl
  cases hgie
  rfl

theorem Device.Armed.recovering_event (hc : c.isOwner = false) :
    returnFromInterrupt (takeInterrupt (d.event c)).recovering = d.unaddressed := by
  obtain ⟨hrole, hctrl, hgie, hfaults⟩ := h
  rw [Device.recovering, stopCmd_of_noStop rfl, if_neg (by simp [takeInterrupt, Device.event, hc])]
  cases d
  cases hctrl
  cases hgie
  rfl

variable (hC : s.standard)
include hC

/-- A turn of the handler that answers the event `c`. -/
theorem pair_handler {d' : Device}
    (hi : exec (decodeEvt standardStatus c.code) (s.pair m (d.event c) target 1 .handler) =
      .next (s.pair m d' target 1 .handler)) :
    (s.pair m (d.event c) target k who).Reaches [.handler 1] (s.pair m d' target 1 .handler) :=
  reaches_of_step ((stepTurn_handler_standard (s := s.pair m (d.event c) target k who) (d := d.event c) hC rfl
    h.handlerEnabled_event).trans hi)

/-- The master's address byte for a write is heard (R283). -/
theorem pair_addrW : (s.pair m (d.event .srSlaAck) target k who).Reaches [.handler 1]
    (s.pair m (d.awaiting .srSlaAck) target 1 .handler) := by
  rw [← h.listening_event]
  exact pair_handler h hC (invokeHandler_addrW (s := s.pair m (d.event .srSlaAck) target 1 .handler)
    (d := d.event .srSlaAck) hC rfl rfl h.en_event (.inl rfl))

/-- The byte received is stored in `CELL` (R284). -/
theorem pair_dataRx : (s.pair m (d.event .srDataAck) target k who).Reaches [.handler 1]
    (s.pair m ({ d with cell := d.data }.awaiting .srDataAck) target 1 .handler) := by
  have h' : ({ d with cell := d.data } : Device).Armed := ⟨h.role, h.ctrl, h.gie, h.faults⟩
  rw [← h'.listening_event]
  exact pair_handler h hC (invokeHandler_dataRx (s := s.pair m (d.event .srDataAck) target 1 .handler)
    (d := d.event .srDataAck) hC rfl rfl h.en_event (.inl rfl))

/-- `RESP` is handed to the transceiver (R285). -/
theorem pair_dataReq : (s.pair m (d.event .stSlaAck) target k who).Reaches [.handler 1]
    (s.pair m { d.awaiting .stSlaAck with data := d.resp, txbyte := some d.resp } target 1 .handler) := by
  rw [← h.replying_event]
  exact pair_handler h hC (invokeHandler_dataReq (s := s.pair m (d.event .stSlaAck) target 1 .handler)
    (d := d.event .stSlaAck) hC rfl rfl rfl)

/-- The transfer is over, and the slave is back in the unaddressed state (R286). -/
theorem pair_other (hc : c.isOwner = false) (hkey : c.code ∉ keyedPhases.map Status.code) :
    (s.pair m (d.event c) target k who).Reaches [.handler 1] (s.pair m d.unaddressed target 1 .handler) := by
  rw [← h.recovering_event hc]
  refine pair_handler h hC ?_
  rw [decodeEvt_of_other hkey]
  exact invokeHandler_other (s := s.pair m (d.event c) target 1 .handler) (d := d.event c) hC rfl rfl h.en_event

end

/-! ### The byte of `read_response` and the end of its run (R247, R317) -/

section
variable {s : State} {m d : Device} {target : Option Nat} {k : Nat} {who : Issuer} {x : Byte}
  (hC : s.standard)
include hC

/-- The address byte acknowledged, the slave sends its byte, which the master does not acknowledge. -/
theorem pair_readByte (hm : m.Told .rrAddrWait .mrSlaAck) (hb : s.cfg.busMode = .closedBus)
    (hd : d.ctrl.int = false) (hr : d.phase.isSt = true) (hd' : d.pend = .byte) (ha : d.ack = some true)
    (ht : d.txbyte = some x) :
    ∃ m', (s.pair m d (some 1) k who).Reaches [.engine 0, .engine 0, .engine 0, .joint]
        (s.pair m' (d.event .stDataNack) (some 1) 0 .host) ∧
      m'.Told .rrReadWait .mrDataNack ∧ m'.data = x := by
  obtain ⟨hst, hp, hint, hpend, hf⟩ := hm
  have hmr : m.phase.isMr = true := by rw [hp]; rfl
  have htest := (pair_hold (s := s) d (some 1) k who hf hint hst (nxt := .rrAddrTest) (by decide)).testPassed
    rfl hC hint rfl (.tail _ (.tail _ (.head _))) (by show m.phase ∈ _; rw [hp]; decide)
  have hbyte := htest.byteWord rfl hC (st := .rrReadGo) (w := .rrReadWait) rfl (by decide) hint
    (by show m.phase.takesByte = true; rw [hp]; rfl)
  let b : BusMove :=
    { master := (((m.goto .rrAddrTest).tested.goto .rrReadGo).byteStep).goto .rrReadWait
      slaves := [d], target := some 1 }
  have hack : b.master.ack = some false := if_pos hmr
  have hmove : jointMove s.cfg.chip.oadr b = _ := (jointMove_of_receive rfl hmr hack).trans
    (jointReceive_of_sender (targetSlave_of_target (k := 0) rfl rfl) hr hd' ha ht)
  exact ⟨_, hbyte.reaches.trans (pair_joint (m := b.master) hb hf rfl rfl hd hmove),
    ⟨rfl, rfl, rfl, rfl, hf⟩, rfl⟩

theorem pair_readEnds (hm : m.Told .rrReadWait .mrDataNack) :
    ∃ m', (s.pair m d target k who).Reaches [.engine 0, .engine 0, .engine 0] (s.pair m' d target 0 .host) ∧
      m'.Stopping (.successByte m.data) := by
  obtain ⟨hst, hp, hint, hpend, hf⟩ := hm
  have htest := (pair_hold (s := s) d target k who hf hint hst (nxt := .rrReadTest) (by decide)).readTest
    rfl hC hint rfl
  have hmem : (m.goto .rrReadTest).phase ∈ accRrRead := by
    show m.phase ∈ _
    rw [hp]
    decide
  rw [if_pos hmem] at htest
  obtain ⟨m', hrun, hm'⟩ := htest.stops rfl hC (.rrFinish m.data rfl rfl) hint hpend
    (by show m.phase.isOwner = true; rw [hp]; rfl) hf
  exact ⟨m', hrun.reaches, hm'⟩

/-! ### The byte of `write_command` and the end of its run (R246, R316) -/

/-- The address byte acknowledged, the slave takes the byte of the command and acknowledges it. -/
theorem pair_writeByte (hm : m.Told .wcAddrWait .mtSlaAck) (hx : m.eng.cmd = some x)
    (hb : s.cfg.busMode = .closedBus) (hd : d.ctrl.int = false) (hr : d.phase.isSrOwn = true)
    (hd' : d.pend = .byte) (ha : d.ack = some true) :
    ∃ m', (s.pair m d (some 1) k who).Reaches [.engine 0, .engine 0, .engine 0, .engine 0, .joint]
        (s.pair m' (({ d with data := x } : Device).event .srDataAck) (some 1) 0 .host) ∧
      m'.Told .wcDataWait .mtDataAck := by
  obtain ⟨hst, hp, hint, hpend, hf⟩ := hm
  have hmt : m.phase.isMt = true := by rw [hp]; rfl
  have hload := ((pair_hold (s := s) d (some 1) k who hf hint hst (nxt := .wcAddrTest) (by decide)).testPassed
    rfl hC hint rfl (.head _) (by show m.phase ∈ _; rw [hp]; decide)).load rfl (.command x rfl hx) hint
  have hbyte := hload.byteWord rfl hC (st := .wcDataGo) (w := .wcDataWait) rfl (by decide) hint
    (by show m.phase.takesByte = true; rw [hp]; rfl)
  let b : BusMove :=
    { master := (((((m.goto .wcAddrTest).tested.goto .wcDataLoad).loaded x).goto .wcDataGo).byteStep).goto .wcDataWait
      slaves := [d], target := some 1 }
  have htx : b.master.txbyte = some x := if_pos (Bool.or_eq_true_iff.mpr (.inr hmt))
  have hmove : jointMove s.cfg.chip.oadr b = _ := (jointMove_of_transmit rfl hmt htx).trans
    (jointTransmit_of_receiver (targetSlave_of_target (k := 0) rfl rfl) hr hd' ha)
  exact ⟨_, hbyte.reaches.trans (pair_joint (m := b.master) hb hf rfl rfl hd hmove), ⟨rfl, rfl, rfl, rfl, hf⟩⟩

theorem pair_writeEnds (hm : m.Told .wcDataWait .mtDataAck) :
    ∃ m', (s.pair m d target k who).Reaches [.engine 0, .engine 0, .engine 0] (s.pair m' d target 0 .host) ∧
      m'.Stopping .success := by
  obtain ⟨hst, hp, hint, hpend, hf⟩ := hm
  have htest := (pair_hold (s := s) d target k who hf hint hst (nxt := .wcDataTest) (by decide)).testPassed
    rfl hC hint rfl (.tail _ (.head _)) (by show m.phase ∈ _; rw [hp]; decide)
  obtain ⟨m', hrun, hm'⟩ := htest.stops rfl hC (.wcFinish rfl) hint hpend
    (by show m.phase.isOwner = true; rw [hp]; rfl) hf
  exact ⟨m', hrun.reaches, hm'⟩

end

/-! ### The two runs -/

/-- A master's host at rest issues an operation to its engine. -/
theorem reaches_issue {s : State} {m d : Device} {w : OpWord} {i : Instr} {m' : Device} (hdevs : s.devs = [m, d])
    (hr : m.role = .master) (hst : m.stage = .idle) (hf : m.faults = []) (hw : decodeOp w = .ok i)
    (hi : (s.focus 0 .host).masterIssues m → exec i (s.focus 0 .host) = .next ((s.focus 0 .host).setCur m')) :
    s.Reaches [.issue 0 .host w] (s.pair m' d s.target 0 .host) := by
  have hm : s.devs[0]? = some m := by rw [hdevs]; rfl
  have hstep := stepTurn_issue_host hm (m.halted_of_faults hf _) w
  rw [hw] at hstep
  rw [← State.after_eq_pair hdevs]
  exact reaches_of_step (hstep.trans (hi ⟨hm, rfl, hr, hst⟩))

/-- The own address in `OADR8(addr)`. -/
theorem extractLsb'_append_zero (addr : Addr) : (addr ++ 0#1).extractLsb' 1 7 = addr :=
  (congrArg (fun b : Byte => b.extractLsb' 1 7) (sla8_eq_append addr false)).symm.trans (sla8_fields addr false).2

/-- Settles O43: the run turn by turn, the slave addressed for the one byte the master asks for; or refused. -/
theorem closedBusReadReturnsTheResponseValue : Obligations.ClosedBusReadReturnsTheResponseValue := by
  intro s m d addr hC hb hdevs hr hst hi hsto hp hphase hf hdr hctrl hdp hdphase hgie hdf e toAddress
  have ha : d.Armed := ⟨hdr, hctrl, hgie, hdf⟩
  let m1 : Device := { m with eng := { m.eng with addr := some addr }, stage := .rrStartGo }
  have hs : m1.StartsAt addr true := ⟨rfl, rfl, hp, hphase⟩
  have hf1 : m1.faults = [] := hf
  have hissue : s.Reaches _ (s.pair m1 d s.target 0 .host) :=
    reaches_issue hdevs hr hst hf (decodeOp_readResponse addr) fun h => exec_readResponse h addr
  refine ⟨fun hne => ?_, fun hoadr => ?_⟩
  · have hno : answers standardOadr addr d = false :=
      Bool.eq_false_iff.mpr fun h => hne (ha.answers_iff.mp h).1
    obtain ⟨m', hrun, hm'⟩ := pair_refused (target := s.target) (k := 0) (who := .host) hC hb hf1 hs ha.int hno
    exact ⟨m', (hissue.trans hrun).runTurns_eq, hm'.outcome, hm'.stage, hm'.pend⟩
  · have hown : d.oadr.extractLsb' 1 7 = addr := by rw [hoadr, extractLsb'_append_zero]
    let d2 : Device := { d.awaiting .stSlaAck with data := d.resp, txbyte := some d.resp }
    have ha2 : d2.Armed := ⟨hdr, hctrl, hgie, hdf⟩
    obtain ⟨m2, haddr, hm2, -⟩ := pair_addressAck (target := s.target) (k := 0) (who := .host) hC hb hf1 hs ha.int
      (ha.answers_iff.mpr ⟨hown, hdphase, hdp⟩)
    have hreq : (s.pair m2 (d.event .stSlaAck) (some 1) s.cur s.issuer).Reaches _
        (s.pair m2 d2 (some 1) 1 .handler) := pair_dataReq ha hC
    obtain ⟨m3, hread, hm3, hdata⟩ := pair_readByte (d := d2) (k := 1) (who := .handler) hC hm2 hb ha2.int rfl rfl
      rfl rfl
    obtain ⟨m4, hend, hm4⟩ := pair_readEnds (s := s) (d := d2.event .stDataNack) (target := some 1) (k := s.cur)
      (who := s.issuer) hC hm3
    rw [hdata] at hm4
    have hleave : (s.pair m4 (d2.event .stDataNack) (some 1) 0 .host).Reaches _
        (s.pair m4 d2.unaddressed (some 1) 1 .handler) := pair_other ha2 hC rfl (by decide)
    have hstop : (s.pair m4 d2.unaddressed (some 1) 1 .handler).Reaches _
        (s.pair (executeStop m4) d2.unaddressed none 1 .handler) :=
      pair_jointStop hb hm4.faults hm4.en hm4.int ha2.int hm4.pend
        (endTransfer_of_other (targetSlave_of_target (k := 0) rfl rfl) (.inl rfl))
    exact ⟨m2, d.event .stSlaAck, m3, d2.event .stDataNack, (hissue.trans haddr).runTurns_eq, rfl, rfl,
      (hreq.trans hread).runTurns_eq, rfl, rfl, executeStop m4, d2.unaddressed,
      (hend.trans (hleave.trans hstop)).runTurns_eq, hm4.outcome, hm4.stage, rfl, rfl, rfl, rfl, hgie, rfl, rfl⟩

/-- Settles O44: the run turn by turn, the byte taken by the addressed slave; or refused. -/
theorem closedBusWriteReachesTheCell : Obligations.ClosedBusWriteReachesTheCell := by
  intro s m d addr x hC hb hdevs hr hst hi hsto hp hphase hf hdr hctrl hgie hdf e toAddress
  have ha : d.Armed := ⟨hdr, hctrl, hgie, hdf⟩
  let m1 : Device := { m with eng := { m.eng with addr := some addr, cmd := some x }, stage := .wcStartGo }
  have hs : m1.StartsAt addr false := ⟨rfl, rfl, hp, hphase⟩
  have hf1 : m1.faults = [] := hf
  have hissue : s.Reaches _ (s.pair m1 d s.target 0 .host) :=
    reaches_issue hdevs hr hst hf (decodeOp_writeCommand addr x) fun h => exec_writeCommand h addr x
  refine ⟨fun hdp hdphase hoadr => ?_, fun hno => ?_⟩
  · have hown : d.oadr.extractLsb' 1 7 = addr := by rw [hoadr, extractLsb'_append_zero]
    let d2 := d.awaiting .srSlaAck
    let d3 : Device := { d2 with data := x }
    let d4 := ({ d3 with cell := x } : Device).awaiting .srDataAck
    have ha2 : d2.Armed := ⟨hdr, hctrl, hgie, hdf⟩
    have ha3 : d3.Armed := ⟨hdr, hctrl, hgie, hdf⟩
    have ha4 : d4.Armed := ⟨hdr, hctrl, hgie, hdf⟩
    obtain ⟨m2, haddr, hm2, hcmd⟩ := pair_addressAck (target := s.target) (k := 0) (who := .host) hC hb hf1 hs
      ha.int (ha.answers_iff.mpr ⟨hown, hdphase, hdp⟩)
    have hheard : (s.pair m2 (d.event .srSlaAck) (some 1) 0 .host).Reaches _ (s.pair m2 d2 (some 1) 1 .handler) :=
      pair_addrW ha hC
    obtain ⟨m3, hwrite, hm3⟩ := pair_writeByte (d := d2) (k := 1) (who := .handler) hC hm2 hcmd hb ha2.int rfl
      rfl rfl
    have htake : (s.pair m3 (d3.event .srDataAck) (some 1) 0 .host).Reaches _ (s.pair m3 d4 (some 1) 1 .handler) :=
      pair_dataRx ha3 hC
    obtain ⟨m4, hend, hm4⟩ := pair_writeEnds (s := s) (d := d4) (target := some 1) (k := 1) (who := .handler) hC
      hm3
    have hstop : (s.pair m4 d4 (some 1) 0 .host).Reaches _
        (s.pair (executeStop m4) (d4.event .srStop) none 0 .host) :=
      pair_jointStop hb hm4.faults hm4.en hm4.int ha4.int hm4.pend
        (endTransfer_of_addressed (targetSlave_of_target (k := 0) rfl rfl) rfl fun _ => rfl)
    have hleave : (s.pair (executeStop m4) (d4.event .srStop) none 0 .host).Reaches _
        (s.pair (executeStop m4) d4.unaddressed none 1 .handler) := pair_other ha4 hC rfl (by decide)
    have hrun := hissue.trans (haddr.trans (hheard.trans (hwrite.trans (htake.trans (hend.trans
      (hstop.trans hleave))))))
    exact ⟨executeStop m4, d4.unaddressed, hrun.runTurns_eq, hm4.outcome, hm4.stage, rfl, rfl, rfl, rfl, rfl⟩
  · have hno' : answers standardOadr addr d = false := by
      refine Bool.eq_false_iff.mpr fun h => ?_
      obtain ⟨hown, hdphase, hdp⟩ := ha.answers_iff.mp h
      simp [hown, hdphase, hdp] at hno
    obtain ⟨m', hrun, hm'⟩ := pair_refused (target := s.target) (k := 0) (who := .host) hC hb hf1 hs ha.int hno'
    exact ⟨m', (hissue.trans hrun).runTurns_eq, hm'.outcome, hm'.stage, hm'.pend⟩

end Sys2Proof.Machine

namespace Sys2Proof.Machine

/-! ### An instruction that is refused changes only the mark (R346) -/

/-- If the mark `refused` is new on `d'`, then `d'` is `d` with the mark and nothing else. -/
def Device.MarkedOnly (d d' : Device) : Prop :=
  d.refused = false → d'.refused = true → ∃ r, d' = d.refuse r

/-- `t` is `s` with the moving device replaced, and a new mark `refused` is all that changed. -/
def State.MarkedOnly (s t : State) : Prop :=
  ∃ d d', s.devs[s.cur]? = some d ∧ t = s.setCur d' ∧ d.MarkedOnly d'

theorem readData_refused (d : Device) : (readData d).2.refused = d.refused := by
  unfold readData
  split <;> rfl

theorem writeData_refused (v : Byte) (d : Device) : (writeData v d).refused = d.refused := by
  unfold writeData
  split <;> rfl

section
variable {cfg : Config} {d d' : Device}

theorem Device.refuse_markedOnly (d : Device) (r : RefuseReason) : d.MarkedOnly (d.refuse r) :=
  fun _ _ => ⟨r, rfl⟩

/-- An effect that is done or a fault leaves the mark, and a refusal undoes the whole step (R346). -/
theorem Eff.EndsWith.markedOnly {e : Eff} {a : Agent} (he : e.EndsWith (·.refused = d.refused)) :
    d.MarkedOnly (e.settle a d) := by
  intro hd hm
  cases e with
  | done x =>
    have hx : x.refused = d.refused := he
    rw [Eff.settle_done, hx, hd] at hm
    cases hm
  | fault r x =>
    have hx : x.refused = d.refused := he
    rw [Eff.settle_fault, Device.raise_refused, hx, hd] at hm
    cases hm
  | refuse r => exact ⟨r, rfl⟩

theorem ctrlWrite_keepsRefused (v : Byte) (h : d'.refused = d.refused) :
    (ctrlWrite cfg v d').EndsWith (·.refused = d.refused) :=
  ctrlWrite_endsWith h fun x hw => by rw [ctrlWrite_frame cfg d' hw]; exact h

/-- The lines that a host's engine and a handler both run. -/
theorem line_keepsRefused {i : Instr} {op : OpKind} {line : Device → Eff} (hl : IsLine cfg i op line) :
    (line d).EndsWith (·.refused = d.refused) := by
  cases hl with
  | stop | armForReply | clearEvent | recover => exact ctrlWrite_keepsRefused _ rfl
  | loadData b => exact writeData_refused b d
  | readData => exact readData_refused d
  | readStatus => rfl

/-- Line 1 of an operation that a host issues (R215, R216). -/
theorem line1_keepsRefused {i : Instr} {op : OpKind} {st : Stage} (hst : IsLine1 i op st) :
    (runStage cfg (d.goto st)).EndsWith (·.refused = d.refused) := by
  have hself : (d.goto st).refused = d.refused := rfl
  have hsingle : ∀ {i op line}, IsLine cfg i op line →
      (lastLine line (d.goto st)).EndsWith (·.refused = d.refused) := fun hl =>
    (line_keepsRefused (d := d.goto st) hl).map fun _ hx => hx
  cases hst with
  | configureMaster => exact .ite trivial (.ite trivial (.ite trivial (.ite trivial hself)))
  | configureSlave => exact .ite trivial (.ite trivial (.ite trivial hself))
  | setAck => exact .ite trivial hself
  | start | readByte => exact (ctrlWrite_keepsRefused _ hself).map fun _ hx => hx
  | writeByte b => exact writeData_refused b (d.goto _)
  | writeCommand | readResponse => exact hself
  | stop => exact hsingle .stop
  | armForReply => exact hsingle .armForReply
  | loadData b => exact hsingle (.loadData b)
  | readData => exact hsingle .readData
  | clearEvent => exact hsingle .clearEvent
  | recover => exact hsingle .recover
  | readStatus => exact hsingle .readStatus

theorem OpMove.markedOnly {k : Nat} {who : Issuer} {i : Instr} (h : OpMove cfg k who i d d') :
    d.MarkedOnly d' := by
  cases h with
  | refused r => exact d.refuse_markedOnly r
  | line1 op st hst => exact (line1_keepsRefused hst).markedOnly
  | handlerLine op line hl => exact (line_keepsRefused hl).markedOnly

/-- One invocation of the handler (R281). -/
theorem handlerInvocation_keepsRefused {action : Device → Eff} (ha : IsAction cfg action) :
    (handlerInvocation action d).EndsWith (·.refused = d.refused) := by
  have hact : (action (takeInterrupt d)).EndsWith (·.refused = d.refused) := by
    cases ha with
    | addrW | other => exact ctrlWrite_keepsRefused _ rfl
    | dataRx => exact ctrlWrite_keepsRefused _ (readData_refused (takeInterrupt d))
    | dataReq => exact ctrlWrite_keepsRefused _ (writeData_refused _ (takeInterrupt d))
  exact hact.map fun _ hx => hx

end

section
variable {s t : State}

theorem directWrite_markedOnly {v : Byte} (h : directWrite v s = .next t) : s.MarkedOnly t := by
  obtain ⟨d, hd, rfl⟩ := onCur_next h
  refine ⟨d, _, hd, rfl, ?_⟩
  split
  · exact d.refuse_markedOnly _
  · exact (ctrlWrite_keepsRefused v rfl).markedOnly

theorem invokeHandler_markedOnly {action : Device → Eff} (ha : IsAction s.cfg action)
    (h : invokeHandler action s = .next t) : s.MarkedOnly t := by
  obtain ⟨d, hd, rfl⟩ := onCur_next h
  exact ⟨d, _, hd, rfl, (handlerInvocation_keepsRefused ha).markedOnly⟩

/-- Every instruction: an operation, a control word, a handler key. -/
theorem exec_markedOnly {i : Instr} (h : exec i s = .next t) : s.MarkedOnly t := by
  have hop : ∀ {op}, i.opKind = some op → s.MarkedOnly t := fun hi => by
    obtain ⟨d, d', hd, rfl, hm⟩ := exec_op_next hi h
    exact ⟨d, d', hd, rfl, hm.markedOnly⟩
  cases i with
  | configureMaster | configureSlave | start | stop | writeByte | readByte | armForReply | loadData
  | readData | setAck | clearEvent | recover | writeCommand | readResponse | readStatus => exact hop rfl
  | ctrlConfig | ctrlContinue | ctrlStart | ctrlStop => exact directWrite_markedOnly h
  | evtAddrWOwn | evtAddrWGeneral => exact invokeHandler_markedOnly .addrW h
  | evtDataRxOwn | evtDataRxGeneral => exact invokeHandler_markedOnly .dataRx h
  | evtDataReqAddress | evtDataReqContinuation => exact invokeHandler_markedOnly .dataReq h
  | evtOther => exact invokeHandler_markedOnly .other h

/-- The mark is all that a refused instruction changes in the system (R346). -/
theorem State.MarkedOnly.eq_setCur {d d' : Device} (h : s.MarkedOnly t) (hd : s.devs[s.cur]? = some d)
    (hd' : t.devs[s.cur]? = some d') (hno : d.refused = false) (hyes : d'.refused = true) :
    ∃ r, t = s.setCur (d.refuse r) := by
  obtain ⟨e, e', he, rfl, hm⟩ := h
  obtain rfl : d = e := Option.some.inj (hd.symm.trans he)
  obtain rfl : e' = d' := Option.some.inj ((State.after_get hd s.issuer e').symm.trans hd')
  obtain ⟨r, rfl⟩ := hm hno hyes
  exact ⟨r, rfl⟩

end

/-! ### A fault halts its agent (R345) -/

theorem Device.halted_raise (d : Device) (r : FaultReason) (a : Agent) : (d.raise r a).halted a = true :=
  List.any_eq_true.mpr ⟨_, (d.mem_raise r a _).mpr (.inl rfl), beq_self_eq_true a⟩

theorem handlerEnabled_of_halted {d : Device} (h : d.halted .handler = true) : d.handlerEnabled = false :=
  Bool.eq_false_iff.mpr fun he => by
    obtain ⟨-, -, -, -, -, hno⟩ := d.handlerEnabled_iff.mp he
    rw [h] at hno
    cases hno

theorem xcvrStep_of_halted {d : Device} (h : d.halted .xcvr = true) (O : OadrLayout) (code : Status)
    (b : Byte) : xcvrStep O code b d = d := if_pos h

section
variable {s : State} {k : Nat} {d : Device} (hd : s.devs[k]? = some d)
include hd

/-- A turn whose condition fails passes. -/
theorem whenCur_focus_of_not {who : Issuer} {cond : Device → Bool} (hc : cond d = false)
    (run : State → Result) : whenCur cond run (s.focus k who) = .next (s.after k who d) := by
  rw [whenCur_false (s := s.focus k who) hd hc, State.after_self hd]

theorem stepTurn_issue_of_not {who : Issuer} (hm : mayIssue who d = false) (w : OpWord) :
    stepTurn (.issue k who w) s = .next (s.after k who d) :=
  whenCur_focus_of_not hd hm _

theorem stepTurn_host_of_not (hm : mayIssue .host d = false) (a : HostAct) :
    stepTurn (.host k a) s = .next (s.after k .host d) :=
  whenCur_focus_of_not (who := .host) hd hm fun s => onCur s (hostAct a)

theorem stepTurn_direct_of_not (hm : mayIssue .host d = false) (acc : RegAccess) :
    stepTurn (.direct k acc) s = .next (s.after k .host d) :=
  whenCur_focus_of_not (who := .host) hd hm (runAccess (s.cfg.chip.offsets.regAt acc.offset) acc)

theorem stepTurn_engine_of_halted (h : d.halted .engine = true) :
    stepTurn (.engine k) s = .next (s.after k .host d) := by
  rw [stepTurn_engine hd, engineTurn, if_pos h]

theorem stepTurn_handler_of_halted (h : d.halted .handler = true) :
    stepTurn (.handler k) s = .next (s.after k .handler d) := by
  rw [stepTurn_handler_off hd (handlerEnabled_of_halted h), State.after_self hd]

theorem stepTurn_xcvr_of_halted (h : d.halted .xcvr = true) (hb : s.cfg.busMode = .openBus) (code : Status)
    (b : Byte) : stepTurn (.xcvr k code b) s = .next (s.after k .host d) := by
  rw [stepTurn_xcvr hb hd, xcvrStep_of_halted h]

end

/-- Settles O13: only a refusal, which undoes its step, sets the mark; a faulting control write leaves the
device; a halted agent's turn passes. -/
theorem refusalsAndFaultsChangeOnlyTheMarks : Obligations.RefusalsAndFaultsChangeOnlyTheMarks := by
  refine ⟨fun s t d d' i hd h hd' hno hyes => (exec_markedOnly h).eq_setCur hd hd' hno hyes,
    fun cfg v d d' r hw => (ctrlWrite_fault cfg d hw).1,
    fun d r a => ⟨d.mem_raise r a, d.raise_eq r a, d.halted_raise r a⟩, fun s k d hd => ?_⟩
  refine ⟨stepTurn_engine_of_halted hd, fun h => ⟨stepTurn_handler_of_halted hd h, ?_⟩, fun h => ?_,
    stepTurn_xcvr_of_halted hd⟩
  · exact stepTurn_issue_of_not hd (handlerEnabled_of_halted h)
  · have hno : mayIssue .host d = false := by rw [mayIssue, h]; rfl
    exact ⟨stepTurn_issue_of_not hd hno, stepTurn_host_of_not hd hno, stepTurn_direct_of_not hd hno⟩

/-! ### The host's cells, `GIE` and outcome (R68, R370) -/

section
variable {d : Device} (hr : d.role = .master)
include hr

/-- An outcome that an operation has left is returned (R243, R370). -/
theorem hostAct_readOutcome_of_some (hst : d.stage = .idle) {o : EngOutcome} (ho : d.eng.outcome = some o) :
    hostAct .readOutcome d = d.returning (.outcome o) := by
  simp [hostAct, hr, inFlightCheck_of_idle hst, ho]

/-- With no outcome left the latch holds no value (R41, U27). -/
theorem hostAct_readOutcome_of_none (hst : d.stage = .idle) (ho : d.eng.outcome = none) :
    hostAct .readOutcome d = d.raise .unwrittenLatch .host := by
  simp [hostAct, hr, inFlightCheck_of_idle hst, ho]

/-- During an operation there is no outcome to read (R215.4). -/
theorem hostAct_readOutcome_of_inFlight (hst : d.stage ≠ .idle) :
    hostAct .readOutcome d = d.refuse .operationInFlight := by
  simp [hostAct, hr, inFlightCheck_of_busy hst]

end

section
variable {d : Device} (hr : d.role ≠ .master)
include hr

theorem hostAct_cellRead : hostAct .cellRead d = d.returning (.byte d.cell) := if_neg hr

theorem hostAct_respWrite (v : Byte) : hostAct (.respWrite v) d = writeResp v d := if_neg hr

theorem hostAct_setGie (on : Bool) : hostAct (.setGie on) d = { d with gie := on } := if_neg hr

/-- The host may only erase the cell (X13). -/
theorem hostAct_cellWrite (v : Byte) :
    hostAct (.cellWrite v) d = if v = 0x00 then writeCell v d else d.refuse .cellWriteNotZero := if_neg hr

end

theorem stepTurn_host_of_eq {s : State} {k : Nat} {d d' : Device} (hd : s.devs[k]? = some d)
    (hh : d.halted .host = false) {a : HostAct} (ha : hostAct a d = d') :
    stepTurn (.host k a) s = .next (s.after k .host d') := by
  rw [stepTurn_host hd hh, ha]

/-- Settles O50: a turn of a host that is not halted is its action, one rule for each action and role. -/
theorem hostActions : Obligations.HostActions := by
  refine ⟨fun s k d hd hh hrole => ?_, fun s k d hd hh hrole => ?_⟩
  · have hturn := fun {a d'} => stepTurn_host_of_eq (a := a) (d' := d') hd hh
    have hr : d.role ≠ .master := by simp [hrole]
    exact ⟨hturn (hostAct_cellRead hr), hturn ((hostAct_cellWrite hr _).trans (if_pos rfl)),
      fun v hv => hturn ((hostAct_cellWrite hr v).trans (if_neg hv)), fun v => hturn (hostAct_respWrite hr v),
      fun v => hturn rfl, fun on => hturn (hostAct_setGie hr on)⟩
  · have hturn := fun {a d'} => stepTurn_host_of_eq (a := a) (d' := d') hd hh
    exact ⟨fun hst o ho => hturn (hostAct_readOutcome_of_some hrole hst ho),
      fun hst ho => hturn (hostAct_readOutcome_of_none hrole hst ho),
      fun hst => hturn (hostAct_readOutcome_of_inFlight hrole hst), fun v => hturn rfl⟩

end Sys2Proof.Machine

namespace Sys2Proof

/-! ### Words of the spec's encodings (R91, R104–R106, R114) -/

/-- A table word that is the encoding of a well-formed instruction decodes to it. -/
theorem decodeTableWord_of_encode {nbits w : Nat} {i : Instr} (hi : i.wellFormed standardStatus = true)
    (hw : tableWord nbits w = some (encode standardChip i)) : decodeTableWord nbits w = some i := by
  have hdecode : decode standardChip (encode standardChip i) = .ok i :=
    decodeOfEncodeIsTheInstruction standardChip i Machine.standardChip_wellFormed hi
  rw [decodeTableWord, hw]
  exact congrArg Except.toOption hdecode

/-- Settles O6: each of the words is the encoding of its instruction. -/
theorem specWordsDecode : Obligations.SpecWordsDecode := by
  unfold Obligations.SpecWordsDecode
  and_intros
  all_goals exact decodeTableWord_of_encode rfl (by decide)

end Sys2Proof
